-- ==== Sys2Proof/Word.lean ====
section
/-! DEFINITION. The widths and index types of the VLT416, and reading and writing one place of a fixed row of places. -/

namespace Sys2Proof

/-- One byte: the unit of memory (R122), of management frames (R167) and of descriptors (R5). -/
abbrev Byte := BitVec 8

/-- A 24-bit byte address: logical (R40) or physical (R122). -/
abbrev Addr := BitVec 24

/-- The four data bytes of the front port, FWD and FRD (R40, R56). -/
abbrev Data := BitVec 32

/-- An originator number, 0 to 3 (FORG, R40). -/
abbrev Originator := Fin 4

/-- A window number, 0 to 63 (R1). -/
abbrev Window := Fin 64

/-- A target number, 0 to 3 (R122). -/
abbrev Target := Fin 4

/-- The index of an intake slot (R44). -/
abbrev SlotIx := Fin 8

/-- The index of a fetch slot (R85). -/
abbrev FetchIx := Fin 2

/-- The index of a cache entry (R64). -/
abbrev EntryIx := Fin 16

/-- The originators in ascending order. -/
def allOriginators : List Originator := [0, 1, 2, 3]

/-- The intake slots in ascending order. -/
def allSlots : List SlotIx := [0, 1, 2, 3, 4, 5, 6, 7]

/-- The fetch slots in ascending order. -/
def allFetchSlots : List FetchIx := [0, 1]

/-- The cache entries in ascending order. -/
def allEntries : List EntryIx := [0, 1, 2, 3, 4, 5, 6, 7, 8, 9, 10, 11, 12, 13, 14, 15]

/-- What stands at place `i` of a row of `n` places. -/
def peek {α : Type} {n : Nat} (v : Vector α n) (i : Fin n) : α := v[i.val]

/-- The row with `x` at place `i` and every other place as it was. -/
def poke {α : Type} {n : Nat} (v : Vector α n) (i : Fin n) (x : α) : Vector α n := v.set i.val x

/-- The row with `f` applied at every place. -/
def everyPlace {α β : Type} {n : Nat} (f : α → β) (v : Vector α n) : Vector β n :=
  Vector.ofFn fun i => f (peek v i)

@[simp] theorem peek_poke {α : Type} {n : Nat} (v : Vector α n) (i j : Fin n) (x : α) :
    peek (poke v i x) j = if i = j then x else peek v j := by
  simp [peek, poke, Vector.getElem_set, Fin.ext_iff]

@[simp] theorem peek_everyPlace {α β : Type} {n : Nat} (f : α → β) (v : Vector α n) (i : Fin n) :
    peek (everyPlace f v) i = f (peek v i) := by
  simp [everyPlace, peek]

@[simp] theorem peek_replicate {α : Type} {n : Nat} (x : α) (i : Fin n) :
    peek (Vector.replicate n x) i = x := by
  simp [peek]

@[simp] theorem peek_ofFn {α : Type} {n : Nat} (f : Fin n → α) (i : Fin n) :
    peek (Vector.ofFn f) i = f i := by
  simp [peek]

/-- Two rows with the same thing at every place are one row. -/
theorem row_ext {α : Type} {n : Nat} {v w : Vector α n} (h : ∀ i, peek v i = peek w i) : v = w := by
  apply Vector.ext
  intro i hi
  exact h ⟨i, hi⟩

theorem poke_peek_self {α : Type} {n : Nat} (v : Vector α n) (i : Fin n) : poke v i (peek v i) = v := by
  apply row_ext
  intro j
  by_cases h : i = j <;> simp [h]

@[simp] theorem mem_allOriginators (o : Originator) : o ∈ allOriginators := by revert o; decide
@[simp] theorem mem_allSlots (i : SlotIx) : i ∈ allSlots := by revert i; decide
@[simp] theorem mem_allFetchSlots (i : FetchIx) : i ∈ allFetchSlots := by revert i; decide
@[simp] theorem mem_allEntries (i : EntryIx) : i ∈ allEntries := by revert i; decide

end Sys2Proof
end

