-- ==== Sys2Proof/Syntax.lean ====
section
/-! DEFINITION. The commands of the part: one constructor for each row of the table of operations and events. -/

namespace Sys2Proof

/-- A request as the upstream bus presents it on the request channel (R40, TABLE 14): FORG, FKIND, FSIZE, FA and FWD. -/
structure FrontRequest where
  org : Originator
  kindCode : BitVec 2
  sizeCode : BitVec 2
  addr : Addr
  wdata : Data
  deriving DecidableEq, Repr

/-- One event at the part. The table gives the rows no operands; each operand below is what the rule of the row says
comes from outside the part. `args` are the argument bytes of a command frame: every whole byte after the code byte
(R167, R168). `x` is the number of extend periods the beat still takes (R126, R127; log 3). -/
inductive Instr where
  /-- R42. `some r`: the upstream bus presents `r`; `none`: it goes on presenting the request that waits (R41). -/
  | admission (r : Option FrontRequest)
  /-- R57. -/
  | responsePresented
  /-- R58. -/
  | responseDeparture
  /-- R49. -/
  | resolutionTurn
  /-- R121. -/
  | forwardReadEntry
  /-- R121. -/
  | forwardWriteEntry
  /-- R91. -/
  | tableReadEntry
  /-- R111. -/
  | statusWriteEntry
  /-- R128. -/
  | recoveryExpiry
  /-- R129. -/
  | forwardReadComplete (x : Nat)
  /-- R129. -/
  | writeOperationComplete (x : Nat)
  /-- R93. -/
  | tableReadComplete (x : Nat)
  /-- R71. -/
  | waitingInstallMade
  /-- R127. -/
  | extendLimitExpiry
  /-- R166. -/
  | resetAsserted
  /-- R59, R166. -/
  | resetReleased
  /-- R169. -/
  | status
  /-- R168. -/
  | unknownCommand (code : Byte)
  /-- R175. -/
  | readWord (args : List Byte)
  /-- R175. Any WRITE_WORD frame. -/
  | writeWord (args : List Byte)
  /-- R150. The WRITE_WORD frame of word 2; `value` are the bytes after the word number. -/
  | writeAttentionMask (value : List Byte)
  /-- R122. The WRITE_WORD frame of the timing record of target `t`; `value` are the bytes after the word number. -/
  | writeTimingRecord (t : Target) (value : List Byte)
  /-- R177. -/
  | getContext (args : List Byte)
  /-- R177. -/
  | setContext (args : List Byte)
  /-- R178. -/
  | originatorOn (args : List Byte)
  /-- R178. -/
  | originatorOff (args : List Byte)
  /-- R178. -/
  | suspend (args : List Byte)
  /-- R178. -/
  | resume (args : List Byte)
  /-- R178. -/
  | releaseQuarantine (args : List Byte)
  /-- R179. -/
  | invalidate (args : List Byte)
  /-- R179. -/
  | invalidateOriginator (args : List Byte)
  /-- R179. -/
  | invalidateStamp (args : List Byte)
  /-- R179. -/
  | invalidateAll (args : List Byte)
  /-- R181. -/
  | pin (args : List Byte)
  /-- R181. -/
  | unpin (args : List Byte)
  /-- R182. -/
  | cacheRead (args : List Byte)
  /-- R183. -/
  | probe (args : List Byte)
  /-- R184. -/
  | logHead (args : List Byte)
  /-- R184. -/
  | logPop (args : List Byte)
  /-- R184. -/
  | logClear (args : List Byte)
  /-- R185. -/
  | engage (args : List Byte)
  /-- R185. -/
  | softReset (args : List Byte)
  /-- R170. -/
  | codeByteWhole (code : Byte)
  /-- R126. -/
  | beatComplete (x : Nat)
  deriving DecidableEq, Repr

end Sys2Proof
end

