-- ==== Sys2Proof/Decode.lean ====
section
/-! DEFINITION. Words of the table (no row of the table of operations and events gives bits, so no word spells one), and
the code bytes of the management frames. -/

namespace Sys2Proof

/-- One row of the table that gives bits: its width, its mask, its pattern and the command it spells. -/
structure BitRow where
  nbits : Nat
  mask : Nat
  pattern : Nat
  command : Instr
  deriving DecidableEq, Repr

/-- The rows of spec/opcode_table.json that give bits: none of the 44 has a "fixed" pattern or a field (log 23). -/
def bitRows : List BitRow := []

/-- The command that the word `w` of `nbits` bits spells by the table's bits (log 23). -/
def decodeTableWord (nbits w : Nat) : Option Instr :=
  (bitRows.find? fun r => decide (r.nbits = nbits) && decide (w &&& r.mask = r.pattern)).map BitRow.command

/-- The codes of TABLE 47 other than STATUS. -/
def commandCodes : List Byte :=
  [0x02, 0x03, 0x08, 0x09, 0x10, 0x11, 0x12, 0x13, 0x14, 0x20, 0x21, 0x22, 0x23, 0x24, 0x25, 0x26, 0x28,
   0x30, 0x31, 0x32, 0x3A, 0x3F]

/-- The code of the STATUS frame (TABLE 47). -/
def statusCode : Byte := 0x01

/-- A code that names no command: not in TABLE 47 (R168). -/
def codeUnknown (c : Byte) : Bool := decide (c ≠ statusCode) && !(commandCodes.contains c)

end Sys2Proof
end

