-- ==== Sys2Proof/Config.lean ====
section
/-! DEFINITION. The free values of the model: what the manual leaves to the devices outside the part. -/

namespace Sys2Proof

/-- FREE VALUE (log 4). The level of MEXT at a sample that a tick makes: the selected target drives it (R127, R134),
and nothing in the manual says which level. Applied to the free counter of the state. -/
opaque Config.mextActive : Nat → Bool

/-- FREE VALUE (log 5). Whether the target took the bytes of a write beat whose strobe period a pin reset cut short:
"whether the target took the bytes is decided by the target" (R135). Applied to the free counter of the state. -/
opaque Config.cutStrobeTaken : Nat → Bool

/-- DESIGN CHOICE (log 6, unsafe). What a byte of external memory that nothing has written reads as: the manual does
not give the contents of the memory devices. -/
def Config.blankByte : Byte := 0

end Sys2Proof
end

