-- ==== Sys2Proof/Machine/State.lean ====
section
/-! DEFINITION. The state of the part, block by block, as plain data, and its value after reset. -/

namespace Sys2Proof.Machine

/-! ## Names that the manual gives -/

/-- The kind of an access (R40). -/
inductive AccessKind where
  | read | write | fetch
  deriving DecidableEq, Repr

/-- The size of an access: 1, 2 or 4 bytes (R40). -/
inductive AccessSize where
  | one | two | four
  deriving DecidableEq, Repr

/-- The causes of TABLE 40. -/
inductive Cause where
  | originatorOff | quarantined | bootRange | noWindow | notPresent | badDescriptor | rights | limit | misaligned
  | tableUnstable | tableReadFail | targetTimeout | reset
  | postedWriteLost | writebackLost | quarantineEntered | resetDone
  deriving DecidableEq, Repr

/-- The part mode (R154). -/
inductive Mode where
  | boot | run
  deriving DecidableEq, Repr

/-- The sequence that the mode control carries out (R154, TABLE 44). -/
inductive Sequence where
  | none | engaging | resetQuiesce | resetMemory | resetAnswer | resetClear
  deriving DecidableEq, Repr

/-- The state of an originator (TABLE 12). -/
inductive OriginatorState where
  | off | active | suspended | quarantined
  deriving DecidableEq, Repr

/-- The key of a descriptor: originator and window (R1). -/
structure Key where
  org : Originator
  win : Window
  deriving DecidableEq, Repr

/-- A physical address: a target and a byte address on it. -/
structure Place where
  target : Target
  addr : Addr
  deriving DecidableEq, Repr

/-! ## Contexts (R22) -/

/-- One context record (TABLE 11). -/
structure Context where
  state : OriginatorState
  tableTarget : Target
  tableBase : BitVec 15
  windowCount : Fin 65
  limit : Byte
  count : Byte
  deriving DecidableEq, Repr

/-! ## Intake queue (R44 to R48, R57) -/

/-- What identifies an access: originator, kind, size and logical address (TABLE 15, TABLE 31). -/
structure Access where
  org : Originator
  kind : AccessKind
  size : AccessSize
  addr : Addr
  deriving DecidableEq, Repr

/-- A translation (R20). -/
structure Translation where
  place : Place
  swap : Bool
  key : Key
  deriving DecidableEq, Repr

/-- A prepared response: DONE, with read data for a READ or FETCH, or REFUSED with its cause (TABLE 15). -/
inductive Answer where
  | done (data : Option Data)
  | refused (cause : Cause)
  deriving DecidableEq, Repr

/-- The states of a slot that is not FREE, each with the fields TABLE 15 gives it. -/
inductive Stage where
  | queued
  | resolving
  | waitFetch
  | resolved (t : Translation)
  | issued (t : Translation)
  | answerReady (t : Option Translation) (a : Answer)
  deriving DecidableEq, Repr

/-- One intake slot: a FREE slot holds nothing but its state (R44); write data are kept for a WRITE only (R40). -/
inductive Slot where
  | free
  | held (access : Access) (wdata : Option Data) (stage : Stage)
  deriving DecidableEq, Repr

/-- The intake queue and the response channel. -/
structure Intake where
  slots : Vector Slot 8
  orders : Vector (List SlotIx) 4
  turnPtr : Originator
  responsePtr : Originator
  presented : Option SlotIx
  deriving DecidableEq, Repr

/-! ## Descriptor cache and status write-back (R64 to R67, R110) -/

/-- Bytes 0 to 6 of a descriptor (TABLE 5). -/
structure Descriptor where
  b0 : Byte
  b1 : Byte
  b2 : Byte
  b3 : Byte
  b4 : Byte
  b5 : Byte
  b6 : Byte
  deriving DecidableEq, Repr

/-- A subset of USED and WRITTEN (TABLE 19). -/
structure Marks where
  used : Bool
  written : Bool
  deriving DecidableEq, Repr

/-- One cache entry (TABLE 19). A STALE entry is always pinned (TABLE 20), a FREE entry never. -/
inductive Entry where
  | free
  | valid (key : Key) (pinned : Bool) (desc : Descriptor) (memStatus : Byte) (marks : Marks)
  | absent (key : Key) (pinned : Bool)
  | stale (key : Key)
  deriving DecidableEq, Repr

/-- The descriptor cache, with the recency list (front first, R67) and the asking order of the status write-back
(oldest first, R110). -/
structure Cache where
  entries : Vector Entry 16
  recency : List EntryIx
  asking : List EntryIx
  deriving DecidableEq, Repr

/-! ## Fetch unit (R85 to R89) -/

/-- One who waits on a fetch: an intake slot in WAIT_FETCH, or the command being executed (R85). -/
inductive Waiter where
  | request (slot : SlotIx)
  | command
  deriving DecidableEq, Repr

/-- The read phase; the table address is written when the read enters the memory queue (TABLE 24). -/
inductive ReadPhase where
  | asking
  | queued (place : Place)
  deriving DecidableEq, Repr

/-- A held result: a VALID descriptor with its byte 7, or ABSENT (TABLE 24). -/
inductive Held where
  | valid (desc : Descriptor) (status : Byte)
  | absent
  deriving DecidableEq, Repr

/-- One fetch slot (TABLE 24). -/
inductive FetchSlot where
  | idle
  | reading (key : Key) (waiters : List Waiter) (overtaken : Bool) (count : Nat) (phase : ReadPhase)
  | installing (key : Key) (waiters : List Waiter) (count : Nat) (place : Place) (held : Held)
  deriving DecidableEq, Repr

/-- One asker on the slot wait list (R88). -/
structure Asker where
  waiter : Waiter
  key : Key
  deriving DecidableEq, Repr

/-- The fetch unit: the slots, the slots asking for entry in the order in which their asking began (R120), the slot
wait list (head first, R88), and the slots whose installs wait in the order in which they began to wait (R71). -/
structure FetchUnit where
  slots : Vector FetchSlot 2
  asks : List FetchIx
  waitList : List Asker
  installs : List FetchIx
  deriving DecidableEq, Repr

/-! ## Memory port (R118 to R128, R134) -/

/-- What a memory operation is, with the fields of TABLE 31 that its kind has. Bytes are held already placed (R118). -/
inductive OpBody where
  | forwardRead (access : Access) (slot : SlotIx)
  | forwardWrite (access : Access) (bytes : List Byte)
  | tableRead (slot : FetchIx)
  | statusWrite (value : Byte)
  deriving DecidableEq, Repr

/-- One memory operation (TABLE 31). -/
structure MemOp where
  place : Place
  key : Key
  body : OpBody
  deriving DecidableEq, Repr

/-- The width of a target (TABLE 32). -/
inductive Width where
  | w8 | w16
  deriving DecidableEq, Repr

/-- A target timing record (TABLE 32). -/
structure Timing where
  width : Width
  accessWait : BitVec 4
  recovery : BitVec 2
  extendLimit : BitVec 8
  deriving DecidableEq, Repr

/-- One beat: what it presents on MA, and which lanes it enables on MLE (R125). -/
structure Beat where
  ma : Addr
  lane0 : Bool
  lane1 : Bool
  deriving DecidableEq, Repr

/-- The period of the beat that is running (R126, TABLE 34): the address period; a wait period, with the wait periods
left counting this one; an extend period, with the extend count; the strobe period. -/
inductive BeatPhase where
  | address
  | wait (left : Nat)
  | extend (count : Nat)
  | strobe
  deriving DecidableEq, Repr

/-- The operation in progress, which stands at the head of the queue (R119): the timing record it began with (R123),
the bytes gathered, the beat under way, the beats after it, and the period. -/
structure Progress where
  timing : Timing
  gathered : List Byte
  beat : Beat
  rest : List Beat
  phase : BeatPhase
  deriving DecidableEq, Repr

/-- The memory queue and memory port. -/
structure Port where
  queue : List MemOp
  current : Option Progress
  timing : Vector Timing 4
  recovery : Vector (BitVec 2) 4
  forwardPtr : Originator
  discards : Nat
  ma : Addr
  mle : BitVec 2
  deriving DecidableEq, Repr

/-! ## Fault log (R139 to R151) -/

/-- The fields of a fault record that the offering block writes (TABLE 39, TABLE 40). -/
structure FaultInfo where
  cause : Cause
  org : Option Originator
  access : Option (AccessKind × AccessSize × Addr)
  window : Option Window
  stamp : Option Byte
  place : Option Place
  detail : Option Byte
  deriving DecidableEq, Repr

/-- A stored fault record: the offered fields, the sequence number and the repeat count (R139). -/
structure FaultRecord where
  seq : BitVec 16
  info : FaultInfo
  repeats : Byte
  deriving DecidableEq, Repr

/-- The fault log, oldest record first, with the attention mask: bit 0 enables "lost", bit n the cause of code n (R150). -/
structure FaultLog where
  records : List FaultRecord
  nextSeq : BitVec 16
  lost : Byte
  mask : BitVec 20
  deriving DecidableEq, Repr

/-! ## Command engine and link (R167 to R174) -/

/-- The results a command can end with (TABLE 50). -/
inductive ResultCode where
  | ok | badArgument | wrongState | notFound | noRoom | fetchFailed | shortFrame | unknownCommand
  deriving DecidableEq, Repr

/-- The long command being executed, with what its completion needs: the drain set (R29), the key of a PIN, the
arguments of a PROBE. -/
inductive LongCommand where
  | suspend (org : Originator) (drain : List SlotIx)
  | originatorOff (org : Originator) (drain : List SlotIx)
  | pin (key : Key)
  | probe (access : Access)
  | engage
  | softReset
  deriving DecidableEq, Repr

/-- The engine states of TABLE 51. The last result and the result bytes are none and 0 in IDLE and RECEIVING, BUSY and
0 in EXECUTING, and the command's in COMPLETE (R170). -/
inductive EnginePhase where
  | idle
  | receiving (code : Byte)
  | executing (command : LongCommand)
  | complete (result : ResultCode) (bytes : Vector Byte 24)
  deriving DecidableEq, Repr

/-- The frame on the link that the engine is not receiving: none; a STATUS frame with its fixed reply (R169); a command
frame that is ignored to its end, refused as busy (R171) or begun before a pin reset (R174). -/
inductive Link where
  | quiet
  | status (reply : Vector Byte 26)
  | ignored (code : Byte)
  deriving DecidableEq, Repr

/-- The command engine and the link. -/
structure Engine where
  phase : EnginePhase
  rejectedBusy : Bool
  link : Link
  deriving DecidableEq, Repr

/-! ## The whole part -/

/-- The state of the part, the memory devices behind it, and the queue of commands waiting. -/
structure State where
  /-- The reset input is held active (R166). -/
  resetActive : Bool
  /-- The part mode (R154). -/
  mode : Mode
  /-- The sequence of the mode control (R154). -/
  sequence : Sequence
  /-- The context table (R22). -/
  contexts : Vector Context 4
  /-- The request presented on the request channel and not yet accepted (R41, R43). -/
  waiting : Option FrontRequest
  /-- The intake queue. -/
  intake : Intake
  /-- The descriptor cache and the asking order. -/
  cache : Cache
  /-- The fetch unit. -/
  fetch : FetchUnit
  /-- The memory queue and memory port. -/
  port : Port
  /-- The bytes of the four targets that differ from the blank byte, by ascending key (R122; log 6). -/
  mem : List Host.Cell
  /-- The fault log and the attention mask. -/
  log : FaultLog
  /-- The command engine and the link. -/
  engine : Engine
  /-- The model's own counter of free values taken (log 19). -/
  freeCount : Nat
  /-- The commands waiting, first in, first out. -/
  pending : List Instr
  deriving DecidableEq, Repr

/-- No command of the table ends in a fault: what the manual calls a fault is a refusal response, a fault record or a
result code, each a next state. There is no constructor, so no step can fault. -/
inductive Fault where
  deriving DecidableEq, Repr

/-- Why a command has no meaning. -/
inductive Refusal where
  /-- Raised by an arm of `exec` that has no meaning yet; safe: nothing is claimed of the command. No arm raises it. -/
  | notModelled (mnemonic : String)
  deriving DecidableEq, Repr

/-! ## Reset values -/

/-- A context after reset (R38, R39). -/
def Context.reset : Context :=
  { state := .off, tableTarget := 0, tableBase := 0, windowCount := 0, limit := 0, count := 0 }

/-- The intake after reset (R59). -/
def Intake.reset : Intake :=
  { slots := Vector.replicate 8 .free, orders := Vector.replicate 4 [], turnPtr := 0, responsePtr := 0,
    presented := none }

/-- The cache and the asking order after reset (R83, R117). -/
def Cache.reset : Cache :=
  { entries := Vector.replicate 16 .free, recency := [], asking := [] }

/-- The fetch unit after reset (R102). -/
def FetchUnit.reset : FetchUnit :=
  { slots := Vector.replicate 2 .idle, asks := [], waitList := [], installs := [] }

/-- The boot values of a timing record (TABLE 32): width 8 and the slowest timing each field can hold (R122). -/
def Timing.boot : Timing :=
  { width := .w8, accessWait := 15, recovery := 3, extendLimit := 255 }

/-- The memory port after a pin reset (R135). -/
def Port.reset : Port :=
  { queue := [], current := none, timing := Vector.replicate 4 .boot, recovery := Vector.replicate 4 0,
    forwardPtr := 0, discards := 0, ma := 0, mle := 0 }

/-- The fault log after a pin reset (R152). -/
def FaultLog.reset : FaultLog :=
  { records := [], nextSeq := 0, lost := 0, mask := 0 }

/-- The engine after a pin reset, with nothing on the link (R174). -/
def Engine.reset : Engine :=
  { phase := .idle, rejectedBusy := false, link := .quiet }

/-- The part right after a pin reset whose input has been released (R154, TABLE 45; log 14), with blank memory devices
(log 6) and no command waiting. -/
def State.reset : State :=
  { resetActive := false, mode := .boot, sequence := .none, contexts := Vector.replicate 4 .reset, waiting := none,
    intake := .reset, cache := .reset, fetch := .reset, port := .reset, mem := [], log := .reset, engine := .reset,
    freeCount := 0, pending := [] }

end Sys2Proof.Machine
end

