-- ==== Sys2Proof/Machine/Operands.lean ====
section
/-! DEFINITION. What the operands mean: request fields, window and offset, the descriptor record, the evaluation of an
access against a descriptor, the order of data bytes, table addresses, and the bytes of a frame. -/

namespace Sys2Proof.Machine

/-! ## Request fields (R40, TABLE 14) -/

/-- Kind codes 0 to 3: READ, WRITE, FETCH, READ (TABLE 14). -/
def AccessKind.ofCode (c : BitVec 2) : AccessKind :=
  if c = 1 then .write else if c = 2 then .fetch else .read

/-- The kind code that reports a kind: 0 READ, 1 WRITE, 2 FETCH (R148). -/
def AccessKind.code : AccessKind → Byte
  | .read => 0
  | .write => 1
  | .fetch => 2

/-- Size codes 0 to 3: 1, 2, 4, 4 bytes (TABLE 14). -/
def AccessSize.ofCode (c : BitVec 2) : AccessSize :=
  if c = 0 then .one else if c = 1 then .two else .four

/-- The number of bytes an access moves. -/
def AccessSize.bytes : AccessSize → Nat
  | .one => 1
  | .two => 2
  | .four => 4

/-- The access that a presented request asks for (R40). -/
def presentedAccess (r : FrontRequest) : Access :=
  { org := r.org, kind := .ofCode r.kindCode, size := .ofCode r.sizeCode, addr := r.addr }

/-- The write data kept: for READ and FETCH requests the part does not keep FWD (R40). -/
def keptData (r : FrontRequest) : Option Data :=
  if AccessKind.ofCode r.kindCode = .write then some r.wdata else none

/-! ## Window and offset (R1) -/

/-- The window number: the logical address divided by 262,144. -/
def windowOf (a : Addr) : Window := Fin.ofNat 64 (a.toNat / 262144)

/-- The window offset: the logical address modulo 262,144. -/
def offsetOf (a : Addr) : Nat := a.toNat % 262144

/-- The key of an access (R1). -/
def Access.key (a : Access) : Key := { org := a.org, win := windowOf a.addr }

/-! ## The descriptor record (TABLE 5) -/

def Descriptor.isValid (d : Descriptor) : Bool := d.b0.getLsbD 0
def Descriptor.mayRead (d : Descriptor) : Bool := d.b0.getLsbD 1
def Descriptor.mayWrite (d : Descriptor) : Bool := d.b0.getLsbD 2
def Descriptor.mayFetch (d : Descriptor) : Bool := d.b0.getLsbD 3
def Descriptor.swap (d : Descriptor) : Bool := d.b0.getLsbD 4
def Descriptor.strictAlign (d : Descriptor) : Bool := d.b0.getLsbD 5
/-- TARGET, bits 7 to 6 of byte 0. -/
def Descriptor.target (d : Descriptor) : Target := Fin.ofNat 4 (d.b0.toNat / 64)
/-- BASE in 256-byte units, byte 1 low. -/
def Descriptor.base (d : Descriptor) : Nat := d.b1.toNat + 256 * d.b2.toNat
/-- LENGTH in 256-byte units, byte 3 low. -/
def Descriptor.length (d : Descriptor) : Nat := d.b3.toNat + 256 * d.b4.toNat
def Descriptor.stamp (d : Descriptor) : Byte := d.b5

/-- The CHECK test (R7): bytes 0 to 6 sum to 0xA5 modulo 256. -/
def Descriptor.checkPasses (d : Descriptor) : Bool :=
  decide ((d.b0.toNat + d.b1.toNat + d.b2.toNat + d.b3.toNat + d.b4.toNat + d.b5.toNat + d.b6.toNat) % 256 = 0xA5)

/-- Well-formedness of a descriptor with VALID = 1 (R9). -/
def Descriptor.wellFormed (d : Descriptor) : Bool :=
  d.checkPasses && decide (1 ≤ d.length) && decide (d.length ≤ 1024) &&
    decide (d.base * 256 + d.length * 256 ≤ 16777216)

/-- Step 4: the right that each kind needs (TABLE 6). -/
def Descriptor.grants (d : Descriptor) : AccessKind → Bool
  | .read => d.mayRead
  | .write => d.mayWrite
  | .fetch => d.mayFetch

/-- What steps 4 to 6 end in (R18). -/
inductive Verdict where
  | pass (t : Translation)
  | fail (cause : Cause)
  deriving DecidableEq, Repr

/-- The translation of an access through a descriptor (R15, R20). -/
def Descriptor.translate (d : Descriptor) (a : Access) : Translation :=
  { place := { target := d.target, addr := BitVec.ofNat 24 (d.base * 256 + offsetOf a.addr) },
    swap := d.swap, key := a.key }

/-- Steps 4, 5 and 6 of the evaluation order, the first failure deciding (R12, R13, R14, R18). -/
def Descriptor.evaluate (d : Descriptor) (a : Access) : Verdict :=
  if d.grants a.kind = false then .fail .rights
  else if d.strictAlign = true ∧ a.addr.toNat % a.size.bytes ≠ 0 then .fail .misaligned
  else if d.length * 256 < offsetOf a.addr + a.size.bytes then .fail .limit
  else .pass (d.translate a)

/-- What the eight bytes of one table read are, by R9 and R10 (tests 3 to 5 of TABLE 26). -/
inductive TableContents where
  | absent
  | malformed (stamp : Byte)
  | valid (d : Descriptor) (status : Byte)
  deriving DecidableEq, Repr

/-- Bytes 0 to 6 of a read. -/
def descriptorOf (bytes : List Byte) : Descriptor :=
  { b0 := bytes.getD 0 0, b1 := bytes.getD 1 0, b2 := bytes.getD 2 0, b3 := bytes.getD 3 0, b4 := bytes.getD 4 0,
    b5 := bytes.getD 5 0, b6 := bytes.getD 6 0 }

/-- The judgement of the bytes of one read (R9, R10, R96). -/
def judgeBytes (bytes : List Byte) : TableContents :=
  if (descriptorOf bytes).isValid = false then .absent
  else if (descriptorOf bytes).wellFormed = false then .malformed (bytes.getD 5 0)
  else .valid (descriptorOf bytes) (bytes.getD 7 0)

/-! ## Boot rules (R155) -/

/-- Every byte of the access lies in the first 64 KiB of the logical space. -/
def Access.inBootRange (a : Access) : Bool := decide (a.addr.toNat + a.size.bytes ≤ 0x10000)

/-- The boot translation (R155). -/
def Access.bootTranslation (a : Access) : Translation :=
  { place := { target := 0, addr := a.addr }, swap := false, key := { org := 0, win := 0 } }

/-! ## Data order (R16, R17) -/

/-- Byte `k` of a value, byte 0 the least significant. -/
def byteAt {n : Nat} (v : BitVec n) (k : Nat) : Byte := v.extractLsb' (8 * k) 8

/-- The low `s` bytes of the write data in address order: reversed under SWAP (R16). -/
def placedBytes (swap : Bool) (s : AccessSize) (v : Data) : List Byte :=
  if swap = true then ((List.range s.bytes).map (byteAt v)).reverse else (List.range s.bytes).map (byteAt v)

/-- The little-endian value of a list of bytes, least significant first. -/
def valueOf : List Byte → Data
  | [] => 0
  | b :: bs => (valueOf bs <<< 8) ||| b.setWidth 32

/-- The read data assembled from the bytes of a read in address order (R17). -/
def assemble (swap : Bool) (bytes : List Byte) : Data :=
  if swap = true then valueOf bytes.reverse else valueOf bytes

/-! ## Table addresses (R3, R4) -/

/-- The byte address at which an originator's table starts. -/
def Context.tableStart (c : Context) : Nat := c.tableBase.toNat * 512

/-- Where the descriptor of window `w` lies under a context (R3). -/
def Context.descriptorPlace (c : Context) (w : Window) : Place :=
  { target := c.tableTarget, addr := BitVec.ofNat 24 (c.tableStart + 8 * w.val) }

/-- Where byte 7 of the descriptor of window `w` lies under a context (R111). -/
def Context.statusPlace (c : Context) (w : Window) : Place :=
  { target := c.tableTarget, addr := BitVec.ofNat 24 (c.tableStart + 8 * w.val + 7) }

/-- The write of `n` bytes at `p` touches the descriptor of window `w` (R104). -/
def Context.touches (c : Context) (p : Place) (n : Nat) (w : Window) : Bool :=
  decide (c.windowCount.val ≠ 0) && decide (c.tableTarget = p.target) && decide (w.val < c.windowCount.val) &&
    decide (p.addr.toNat < c.tableStart + 8 * w.val + 8) && decide (c.tableStart + 8 * w.val < p.addr.toNat + n)

/-! ## Frames -/

/-- Argument byte `k` of a frame, as a number. -/
def arg (args : List Byte) (k : Nat) : Nat := (args.getD k 0).toNat

/-- Two argument bytes, low first. -/
def arg2 (args : List Byte) (k : Nat) : Nat := arg args k + 256 * arg args (k + 1)

/-- Three argument bytes, low first. -/
def arg3 (args : List Byte) (k : Nat) : Nat := arg args k + 256 * arg args (k + 1) + 65536 * arg args (k + 2)

/-- A number as one byte. -/
def byte (n : Nat) : Byte := BitVec.ofNat 8 n

/-- A Boolean as one byte. -/
def byteOfBool (b : Bool) : Byte := if b = true then 1 else 0

/-- A 24-bit address as three bytes, low first. -/
def addrBytes (a : Addr) : List Byte := [byteAt a 0, byteAt a 1, byteAt a 2]

/-- The 24 result bytes with the layout in front and every byte beyond it 0 (R172). -/
def resultBytes (layout : List Byte) : Vector Byte 24 := Vector.ofFn fun i => layout.getD i.val 0

/-- An originator argument in range 0 to 3 (R172). -/
def originatorArg (args : List Byte) (k : Nat) : Option Originator :=
  if h : arg args k < 4 then some ⟨arg args k, h⟩ else none

/-- A key argument: originator 0 to 3 and window 0 to 63 (R74, R78, R80). -/
def keyArg (args : List Byte) : Option Key :=
  if h : arg args 0 < 4 ∧ arg args 1 < 64 then some { org := ⟨arg args 0, h.1⟩, win := ⟨arg args 1, h.2⟩ } else none

/-- A kind code 0 to 2 of PROBE (R183). -/
def kindArg (n : Nat) : Option AccessKind :=
  if n = 0 then some .read else if n = 1 then some .write else if n = 2 then some .fetch else none

/-- A size given as the number of bytes (R183). -/
def sizeArg (n : Nat) : Option AccessSize :=
  if n = 1 then some .one else if n = 2 then some .two else if n = 4 then some .four else none

/-- The arguments of PROBE: originator, kind code, size, logical address low, middle, high (R183). -/
def probeArgs (args : List Byte) : Option Access :=
  match originatorArg args 0, kindArg (arg args 1), sizeArg (arg args 2) with
  | some o, some k, some s => some { org := o, kind := k, size := s, addr := BitVec.ofNat 24 (arg3 args 3) }
  | _, _, _ => none

/-- The arguments of SET_CONTEXT (R28, R177): originator, table target, table base low and high, window count, limit. -/
structure ContextArgs where
  org : Originator
  tableTarget : Target
  tableBase : BitVec 15
  windowCount : Fin 65
  limit : Byte
  deriving DecidableEq, Repr

/-- The arguments of SET_CONTEXT when every one is in range (R28). -/
def contextArgs (args : List Byte) : Option ContextArgs :=
  if h : arg args 0 < 4 ∧ arg args 1 < 4 ∧ arg2 args 2 ≤ 32767 ∧ arg args 4 ≤ 64 then
    some { org := ⟨arg args 0, h.1⟩, tableTarget := ⟨arg args 1, h.2.1⟩, tableBase := BitVec.ofNat 15 (arg2 args 2),
           windowCount := ⟨arg args 4, by omega⟩, limit := args.getD 5 0 }
  else none

/-- The fields of a timing record word (TABLE 52) when every one is in range (R175). -/
def timingOf (v : List Byte) : Option Timing :=
  if arg v 0 ≤ 1 ∧ arg v 1 ≤ 15 ∧ arg v 2 ≤ 3 ∧ 1 ≤ arg v 3 then
    some { width := if arg v 0 = 1 then .w16 else .w8, accessWait := BitVec.ofNat 4 (arg v 1),
           recovery := BitVec.ofNat 2 (arg v 2), extendLimit := v.getD 3 0 }
  else none

/-- A timing record as its word (TABLE 52). -/
def Timing.word (t : Timing) : List Byte :=
  [match t.width with | .w8 => 0 | .w16 => 1, byte t.accessWait.toNat, byte t.recovery.toNat, t.extendLimit]

/-- The attention mask in a word (TABLE 52) when it sets no enable of code 14 or 15 and no bit beyond code 19 (R150,
R175). -/
def maskOf (v : List Byte) : Option (BitVec 20) :=
  if arg v 1 / 64 = 0 ∧ arg v 2 / 16 = 0 ∧ arg v 3 = 0 then some (BitVec.ofNat 20 (arg3 v 0)) else none

/-- The attention mask as its word (TABLE 52). -/
def maskWord (m : BitVec 20) : List Byte := [byteAt m 0, byteAt m 1, byteAt m 2, 0]

end Sys2Proof.Machine
end

