-- ==== Sys2Proof/Machine/Flags.lean ====
section
/-! DEFINITION. Codes, marks, the attention line and the status byte. -/

namespace Sys2Proof.Machine

/-! ## Cause codes (TABLE 40) -/

/-- The numeric code of a cause. -/
def Cause.code : Cause → Nat
  | .originatorOff => 1
  | .quarantined => 2
  | .bootRange => 3
  | .noWindow => 4
  | .notPresent => 5
  | .badDescriptor => 6
  | .rights => 7
  | .limit => 8
  | .misaligned => 9
  | .tableUnstable => 10
  | .tableReadFail => 11
  | .targetTimeout => 12
  | .reset => 13
  | .postedWriteLost => 16
  | .writebackLost => 17
  | .quarantineEntered => 18
  | .resetDone => 19

/-- The causes that count toward the refusal limit: NO_WINDOW, NOT_PRESENT, RIGHTS, LIMIT, MISALIGNED (R35). -/
def Cause.counted : Cause → Bool
  | .noWindow | .notPresent | .rights | .limit | .misaligned => true
  | _ => false

/-! ## Other codes -/

/-- The code of an originator state (TABLE 53). -/
def OriginatorState.code : OriginatorState → Byte
  | .off => 0
  | .active => 1
  | .suspended => 2
  | .quarantined => 3

/-- The code of the part mode (TABLE 49, TABLE 52). -/
def Mode.code : Mode → Byte
  | .boot => 0
  | .run => 1

/-- The result codes (TABLE 50). -/
def ResultCode.code : ResultCode → Byte
  | .ok => 0x01
  | .badArgument => 0x03
  | .wrongState => 0x04
  | .notFound => 0x05
  | .noRoom => 0x06
  | .fetchFailed => 0x07
  | .shortFrame => 0x08
  | .unknownCommand => 0x09

/-- The engine state code (TABLE 49). -/
def EnginePhase.code : EnginePhase → Byte
  | .idle => 0
  | .receiving _ => 1
  | .executing _ => 2
  | .complete _ _ => 3

/-- The last result code (TABLE 50, TABLE 51). -/
def EnginePhase.lastResult : EnginePhase → Byte
  | .idle => 0x00
  | .receiving _ => 0x00
  | .executing _ => 0x02
  | .complete r _ => r.code

/-- The 24 result bytes (R170). -/
def EnginePhase.bytes : EnginePhase → Vector Byte 24
  | .complete _ b => b
  | _ => Vector.replicate 24 0

/-! ## Marks (R109, R111) -/

/-- No mark. -/
def Marks.empty : Marks := { used := false, written := false }

/-- Neither USED nor WRITTEN is held. -/
def Marks.isEmpty (m : Marks) : Bool := !m.used && !m.written

/-- The marks as the low bits of a status byte: bit 0 USED, bit 1 WRITTEN (TABLE 5, TABLE 55). -/
def Marks.byte (m : Marks) : Byte := (if m.used = true then 1 else 0) ||| (if m.written = true then 2 else 0)

/-- The marks that an access calls for: USED, and WRITTEN for a WRITE (R109). -/
def Marks.ofKind (k : AccessKind) : Marks := { used := true, written := decide (k = .write) }

/-- The pending marks after a translation: a bit is raised when neither the memory status nor the pending marks hold
it (R109). -/
def Marks.raise (m : Marks) (status : Byte) (k : AccessKind) : Marks :=
  { used := m.used || ((Marks.ofKind k).used && !status.getLsbD 0),
    written := m.written || ((Marks.ofKind k).written && !status.getLsbD 1) }

/-- The pending marks that a memory status does not hold (R112). -/
def Marks.without (m : Marks) (status : Byte) : Marks :=
  { used := m.used && !status.getLsbD 0, written := m.written && !status.getLsbD 1 }

/-- A memory status with the USED and WRITTEN bits of a written value added (R112). -/
def addMarkBits (status value : Byte) : Byte := status ||| (value &&& 3)

/-! ## The attention line (R150, R151) -/

/-- The level that the log and the mask give. -/
def FaultLog.attention (l : FaultLog) : Bool :=
  l.records.any (fun r => l.mask.getLsbD r.info.cause.code) || (decide (l.lost ≠ 0) && l.mask.getLsbD 0)

/-- ATN active, pulled low; released while the reset input is held active (R151). -/
def State.atn (s : State) : Bool := !s.resetActive && s.log.attention

/-! ## The STATUS reply (R169) -/

/-- The status byte (TABLE 49). -/
def State.statusByte (s : State) : Byte :=
  s.engine.phase.code ||| (s.mode.code <<< 2) ||| (byteOfBool s.atn <<< 3) ||| (byteOfBool s.engine.rejectedBusy <<< 4)

/-- The 26 bytes that follow the code byte of a STATUS frame (TABLE 48). -/
def State.statusReply (s : State) : Vector Byte 26 :=
  Vector.ofFn fun i =>
    if i.val = 0 then s.statusByte
    else if i.val = 1 then s.engine.phase.lastResult
    else s.engine.phase.bytes.toList.getD (i.val - 2) 0

end Sys2Proof.Machine
end

