-- ==== Sys2Proof/Machine/Cache.lean ====
section
/-! DEFINITION. The descriptor cache: lookup, recency, install and victim choice, invalidation, pins, status fields. -/

namespace Sys2Proof.Machine

/-! ## One entry -/

/-- The key an entry holds (TABLE 19). -/
def Entry.key? : Entry → Option Key
  | .free => none
  | .valid k _ _ _ _ => some k
  | .absent k _ => some k
  | .stale k => some k

/-- The PINNED flag: clear in a FREE entry, always set in a STALE one (TABLE 20). -/
def Entry.pinned : Entry → Bool
  | .free => false
  | .valid _ p _ _ _ => p
  | .absent _ p => p
  | .stale _ => true

/-- The entry is FREE. -/
def Entry.isFree : Entry → Bool
  | .free => true
  | _ => false

/-- The entry is VALID or ABSENT, so that a lookup of its key hits (TABLE 20). -/
def Entry.live : Entry → Bool
  | .valid _ _ _ _ _ => true
  | .absent _ _ => true
  | _ => false

/-- A lookup of `k` hits the entry (R68). -/
def Entry.answers (k : Key) (e : Entry) : Bool := e.live && decide (e.key? = some k)

/-- The entry is STALE with key `k`. -/
def Entry.staleOf (k : Key) : Entry → Bool
  | .stale k' => decide (k' = k)
  | _ => false

/-- The pending marks are not empty (R110). -/
def Entry.hasMarks : Entry → Bool
  | .valid _ _ _ _ m => !m.isEmpty
  | _ => false

/-- The conditions on a victim: not pinned, not STALE, pending marks empty (R69). -/
def Entry.evictable : Entry → Bool
  | .valid _ p _ _ m => !p && m.isEmpty
  | .absent _ p => !p
  | _ => false

/-- What an invalidation does to an entry it reaches (R73). -/
def Entry.invalidated : Entry → Entry
  | .free => .free
  | .valid k p _ _ _ => if p = true then .stale k else .free
  | .absent k p => if p = true then .stale k else .free
  | .stale k => .stale k

/-- The entry with PINNED set (R78). -/
def Entry.pin : Entry → Entry
  | .valid k _ d st m => .valid k true d st m
  | .absent k _ => .absent k true
  | e => e

/-- What UNPIN does to a pinned entry: a STALE entry becomes FREE (R80). -/
def Entry.unpin : Entry → Entry
  | .valid k _ d st m => .valid k false d st m
  | .absent k _ => .absent k false
  | _ => .free

/-- The entry that an install fills (R70). -/
def Held.entry (h : Held) (k : Key) (pin : Bool) : Entry :=
  match h with
  | .valid d st => .valid k pin d st .empty
  | .absent => .absent k pin

/-- The marks of an access raised in a VALID entry (R109). -/
def Entry.raise (kind : AccessKind) : Entry → Entry
  | .valid k p d st m => .valid k p d st (m.raise st kind)
  | e => e

/-- The value of the entry's status write: the memory status with the pending marks added (R111). -/
def Entry.statusValue : Entry → Byte
  | .valid _ _ _ st m => st ||| m.byte
  | _ => 0

/-- The entry at the entry of its status write: the memory status takes the value, the pending marks empty (R111). -/
def Entry.sent (e : Entry) : Entry :=
  match e with
  | .valid k p d st m => .valid k p d (st ||| m.byte) .empty
  | e => e

/-- A VALID sharer takes the USED and WRITTEN bits of a written value (R112). -/
def Entry.share (value : Byte) : Entry → Entry
  | .valid k p d st m => .valid k p d (addMarkBits st value) (m.without (addMarkBits st value))
  | e => e

/-! ## The cache -/

/-- The entry at an index. -/
def Cache.entry (c : Cache) (i : EntryIx) : Entry := peek c.entries i

/-- The entry a lookup of `k` hits, if any (R68). -/
def Cache.find (c : Cache) (k : Key) : Option EntryIx := allEntries.find? fun i => (c.entry i).answers k

/-- A hit moves the entry to the front of the recency list (R67). -/
def Cache.touch (c : Cache) (i : EntryIx) : Cache := { c with recency := i :: c.recency.erase i }

/-- The number of pinned entries (R66). -/
def Cache.pinCount (c : Cache) : Nat := (allEntries.filter fun i => (c.entry i).pinned).length

/-- The pinned entry with key `k`, if any (R78, R80). -/
def Cache.pinnedOf (c : Cache) (k : Key) : Option EntryIx :=
  allEntries.find? fun i => (c.entry i).pinned && decide ((c.entry i).key? = some k)

/-- The entry that receives an install of `k`: the STALE entry of the key, else the lowest FREE entry, else the victim
nearest the back of the recency list (R69). -/
def Cache.choose (c : Cache) (k : Key) : Option EntryIx :=
  match allEntries.find? fun i => (c.entry i).staleOf k with
  | some i => some i
  | none =>
    match allEntries.find? fun i => (c.entry i).isFree with
    | some i => some i
    | none => c.recency.reverse.find? fun i => (c.entry i).evictable

/-- An install into entry `i`, put at the front of the recency list (R70). -/
def Cache.install (c : Cache) (i : EntryIx) (e : Entry) : Cache :=
  ({ c with entries := poke c.entries i e }).touch i

/-- Marks raised in entry `i`: it joins the asking order when its pending marks were empty (R109, R110). -/
def Cache.raiseMarks (c : Cache) (i : EntryIx) (kind : AccessKind) : Cache :=
  { c with
    entries := poke c.entries i ((c.entry i).raise kind)
    asking := if (c.entry i).hasMarks = false ∧ ((c.entry i).raise kind).hasMarks = true then c.asking ++ [i]
              else c.asking }

/-- The lists of a cache whose entries have changed: a FREE entry leaves the recency list (R67), and an entry without
pending marks leaves the asking order (R110). -/
def Cache.withEntries (c : Cache) (entries : Vector Entry 16) : Cache :=
  { entries := entries
    recency := c.recency.filter fun i => !(peek entries i).isFree
    asking := c.asking.filter fun i => (peek entries i).hasMarks }

/-- The cache with every entry that `covered` names invalidated (R73). -/
def Cache.invalidate (c : Cache) (covered : Entry → Bool) : Cache :=
  c.withEntries (everyPlace (fun e => if covered e = true then e.invalidated else e) c.entries)

/-- The number of entries that an invalidation turns FREE or STALE (R73). -/
def Cache.invalidatedCount (c : Cache) (covered : Entry → Bool) : Nat :=
  (allEntries.filter fun i => (c.entry i).live && covered (c.entry i)).length

/-- The cache with entry `i` pinned (R78). -/
def Cache.pin (c : Cache) (i : EntryIx) : Cache := { c with entries := poke c.entries i (c.entry i).pin }

/-- The cache with entry `i` unpinned (R80). -/
def Cache.unpin (c : Cache) (i : EntryIx) : Cache := c.withEntries (poke c.entries i (c.entry i).unpin)

/-- The cache at the entry of the status write of entry `i`: the entry takes the value, and every other entry whose key
`shares` names takes its USED and WRITTEN bits (R111, R112). -/
def Cache.sendStatus (c : Cache) (i : EntryIx) (shares : Key → Bool) : Cache :=
  c.withEntries (Vector.ofFn fun j =>
    if j = i then (c.entry j).sent
    else if ((c.entry j).key?.map shares).getD false = true then (c.entry j).share (c.entry i).statusValue
    else c.entry j)

/-- The place of an entry in the recency list, 0 at the front; 0 for a FREE entry (TABLE 21). -/
def Cache.recencyPosition (c : Cache) (i : EntryIx) : Nat :=
  if (c.entry i).isFree = true then 0 else c.recency.idxOf i

/-- The state code of an entry (TABLE 55). -/
def Entry.code : Entry → Byte
  | .free => 0
  | .valid _ _ _ _ _ => 1
  | .absent _ _ => 2
  | .stale _ => 3

/-- Bytes 0 to 6 of a descriptor. -/
def Descriptor.bytes (d : Descriptor) : List Byte := [d.b0, d.b1, d.b2, d.b3, d.b4, d.b5, d.b6]

/-- Bytes 5 to 13 of the CACHE_READ result (TABLE 55): descriptor, memory status and pending marks of a VALID entry. -/
def Entry.statusFields : Entry → List Byte
  | .valid _ _ d st m => d.bytes ++ [st, m.byte]
  | _ => [0, 0, 0, 0, 0, 0, 0, 0, 0]

/-- The 14 result bytes of CACHE_READ (TABLE 55). -/
def Cache.readLayout (c : Cache) (i : EntryIx) : List Byte :=
  [(c.entry i).code, byte (((c.entry i).key?.map fun k => k.org.val).getD 0),
   byte (((c.entry i).key?.map fun k => k.win.val).getD 0), byteOfBool (c.entry i).pinned,
   byte (c.recencyPosition i)] ++ (c.entry i).statusFields

end Sys2Proof.Machine
end

