-- ==== Sys2Proof/Machine/Fetch.lean ====
section
/-! DEFINITION. The fetch unit: placing an asker, giving a slot to the wait list, reissue, overtaking. -/

namespace Sys2Proof.Machine

/-- The number of table reads a fetch makes at most (R95). -/
def maxReads : Nat := 5

/-- The key a fetch slot holds (TABLE 24). -/
def FetchSlot.key? : FetchSlot → Option Key
  | .idle => none
  | .reading k _ _ _ _ => some k
  | .installing k _ _ _ _ => some k

/-- The slot is IDLE. -/
def FetchSlot.isIdle : FetchSlot → Bool
  | .idle => true
  | _ => false

/-- The slot is READING in read phase QUEUED for a key that `p` names (R113). -/
def FetchSlot.queuedFor (p : Key → Bool) : FetchSlot → Bool
  | .reading k _ _ _ (.queued _) => p k
  | _ => false

/-- The slot with one more waiter, its last (R87). -/
def FetchSlot.attach (w : Waiter) : FetchSlot → FetchSlot
  | .idle => .idle
  | .reading k ws ov n ph => .reading k (ws ++ [w]) ov n ph
  | .installing k ws n p h => .installing k (ws ++ [w]) n p h

/-- A slot in READING with a key that `p` names has its overtaken flag set (R92). -/
def FetchSlot.overtake (p : Key → Bool) : FetchSlot → FetchSlot
  | .reading k ws ov n ph => .reading k ws (ov || p k) n ph
  | f => f

/-- A held VALID descriptor of a key that `p` names takes the USED and WRITTEN bits of a written value (R112). -/
def FetchSlot.share (p : Key → Bool) (value : Byte) : FetchSlot → FetchSlot
  | .installing k ws n pl (.valid d st) =>
    .installing k ws n pl (.valid d (if p k = true then addMarkBits st value else st))
  | f => f

/-- The fetch slot at an index. -/
def FetchUnit.slot (u : FetchUnit) (i : FetchIx) : FetchSlot := peek u.slots i

/-- The unit with fetch slot `i` replaced. -/
def FetchUnit.setSlot (u : FetchUnit) (i : FetchIx) (f : FetchSlot) : FetchUnit :=
  { u with slots := poke u.slots i f }

/-- Slot `i` given to a key with its waiters: read count 1, overtaken clear, asking for its first read (R86). -/
def FetchUnit.begin (u : FetchUnit) (i : FetchIx) (k : Key) (ws : List Waiter) : FetchUnit :=
  { u with slots := poke u.slots i (.reading k ws false 1 .asking), asks := u.asks ++ [i] }

/-- A miss is handed to the fetch unit (R87): the slot that holds the key, else the lowest IDLE slot, else the tail of
the slot wait list. -/
def FetchUnit.placeMiss (u : FetchUnit) (k : Key) (w : Waiter) : FetchUnit :=
  match allFetchSlots.find? fun i => decide ((u.slot i).key? = some k) with
  | some i => u.setSlot i ((u.slot i).attach w)
  | none =>
    match allFetchSlots.find? fun i => (u.slot i).isIdle with
    | some i => u.begin i k [w]
    | none => { u with waitList := u.waitList ++ [{ waiter := w, key := k }] }

/-- A slot that has become free: given to the head of the wait list together with every other entry of the same key,
or IDLE (R86, R89). -/
def FetchUnit.release (u : FetchUnit) (i : FetchIx) : FetchUnit :=
  match u.waitList with
  | [] => u.setSlot i .idle
  | a :: rest =>
    ({ u with waitList := rest.filter fun (b : Asker) => decide (b.key ≠ a.key) }).begin i a.key
      (a.waiter :: (rest.filter fun (b : Asker) => decide (b.key = a.key)).map Asker.waiter)

/-- A reissue: the count rises by 1, the flag is cleared, and the slot asks for a new table read (R95, R97). -/
def FetchUnit.reissue (u : FetchUnit) (i : FetchIx) (k : Key) (ws : List Waiter) (n : Nat) : FetchUnit :=
  { u with slots := poke u.slots i (.reading k ws false (n + 1) .asking), asks := u.asks ++ [i] }

/-- An event that covers the keys `p` marks the slots in READING overtaken (R92). -/
def FetchUnit.overtake (u : FetchUnit) (p : Key → Bool) : FetchUnit :=
  { u with slots := everyPlace (FetchSlot.overtake p) u.slots }

/-- The held installs of the sharers of a status write take its mark bits (R112). -/
def FetchUnit.share (u : FetchUnit) (p : Key → Bool) (value : Byte) : FetchUnit :=
  { u with slots := everyPlace (FetchSlot.share p value) u.slots }

/-- Some slot in READING, phase QUEUED, holds a key that `p` names (R113). -/
def FetchUnit.readQueuedFor (u : FetchUnit) (p : Key → Bool) : Bool :=
  allFetchSlots.any fun i => (u.slot i).queuedFor p

/-- SOFT_RESET withdraws the askings and voids the waiting installs at acceptance; the slots keep their fields
(R84, R103). -/
def FetchUnit.withdraw (u : FetchUnit) : FetchUnit := { u with asks := [], installs := [] }

end Sys2Proof.Machine
end

