-- ==== Sys2Proof/Machine/Log.lean ====
section
/-! DEFINITION. The fault log: forming, offering, merging, storing and dropping records, and their layout. -/

namespace Sys2Proof.Machine

/-- The number of records the log holds at most (R143). -/
def logCapacity : Nat := 16

/-- A counter of one byte raised by 1, staying at 255 (R142, R144). -/
def saturatingSucc (n : Byte) : Byte := if n = 255 then 255 else n + 1

/-- Two records are equal for a merge: same cause, originator, window and kind; absent in both counts as equal
(R142). -/
def FaultInfo.sameFault (a b : FaultInfo) : Bool :=
  decide (a.cause = b.cause) && decide (a.org = b.org) && decide (a.window = b.window) &&
    decide (a.access.map Prod.fst = b.access.map Prod.fst)

/-- An offered record appended with repeat count 0 and the next sequence number (R143). -/
def FaultLog.store (l : FaultLog) (f : FaultInfo) : FaultLog :=
  { l with records := l.records ++ [{ seq := l.nextSeq, info := f, repeats := 0 }], nextSeq := l.nextSeq + 1 }

/-- An offered record that finds the log full: the lost count rises (R144). -/
def FaultLog.drop (l : FaultLog) : FaultLog := { l with lost := saturatingSucc l.lost }

/-- A merge into the newest record: its repeat count rises (R142). -/
def FaultLog.merge (l : FaultLog) (r : FaultRecord) : FaultLog :=
  { l with records := l.records.dropLast ++ [{ r with repeats := saturatingSucc r.repeats }] }

/-- A record that does not merge is stored when there is room and dropped when there is none (R143, R144). -/
def FaultLog.storeOrDrop (l : FaultLog) (f : FaultInfo) : FaultLog :=
  if l.records.length < logCapacity then l.store f else l.drop

/-- The log takes an offered record (TABLE 41): it is compared with the newest record first (R142). -/
def FaultLog.offer (l : FaultLog) (f : FaultInfo) : FaultLog :=
  match l.records.getLast? with
  | some r => if r.info.sameFault f = true then l.merge r else l.storeOrDrop f
  | none => l.storeOrDrop f

/-- LOG_CLEAR at the log (R147). -/
def FaultLog.clear (l : FaultLog) : FaultLog := { l with records := [], lost := 0 }

/-- LOG_POP at the log: the oldest record is removed (R146). -/
def FaultLog.pop (l : FaultLog) : FaultLog := { l with records := l.records.tail }

/-! ## Forming records (TABLE 40, R140) -/

/-- The record of a refusal or of a failed forwarded access. -/
def refusalRecord (cause : Cause) (a : Access) (stamp : Option Byte) (place : Option Place) (detail : Option Byte) :
    FaultInfo :=
  { cause := cause, org := some a.org, access := some (a.kind, a.size, a.addr), window := some (windowOf a.addr),
    stamp := stamp, place := place, detail := detail }

/-- A record of a failed forwarded operation, whose window is that of the key it carries (R130, R131). -/
def operationRecord (cause : Cause) (a : Access) (k : Key) (p : Place) : FaultInfo :=
  { cause := cause, org := some a.org, access := some (a.kind, a.size, a.addr), window := some k.win,
    stamp := none, place := some p, detail := none }

/-- WRITEBACK_LOST (R133). -/
def writebackRecord (k : Key) (p : Place) : FaultInfo :=
  { cause := .writebackLost, org := some k.org, access := none, window := some k.win, stamp := none, place := some p,
    detail := none }

/-- QUARANTINE_ENTERED, with the refusal limit as detail (R37). -/
def quarantineRecord (o : Originator) (limit : Byte) : FaultInfo :=
  { cause := .quarantineEntered, org := some o, access := none, window := none, stamp := none, place := none,
    detail := some limit }

/-- RESET_DONE, with the discard count as detail (R153). -/
def resetDoneRecord (discards : Nat) : FaultInfo :=
  { cause := .resetDone, org := none, access := none, window := none, stamp := none, place := none,
    detail := some (byte discards) }

/-- The log at the clearing step of SOFT_RESET: one RESET_DONE record, sequence number 0, and the mask kept (R153). -/
def FaultLog.afterSoftReset (l : FaultLog) (discards : Nat) : FaultLog :=
  { records := [{ seq := 0, info := resetDoneRecord discards, repeats := 0 }], nextSeq := 1, lost := 0, mask := l.mask }

/-! ## The layout of a record (TABLE 42) -/

/-- The presence bits of byte 3. -/
def FaultInfo.presence (f : FaultInfo) : Byte :=
  byteOfBool f.org.isSome ||| (byteOfBool f.access.isSome <<< 1) ||| (byteOfBool f.window.isSome <<< 2) |||
    (byteOfBool f.stamp.isSome <<< 3) ||| (byteOfBool f.place.isSome <<< 4) ||| (byteOfBool f.detail.isSome <<< 5)

/-- Bytes 5 to 9: kind code, size and logical address, 0 when absent. -/
def accessBytes : Option (AccessKind × AccessSize × Addr) → List Byte
  | some (k, s, a) => [k.code, byte s.bytes] ++ addrBytes a
  | none => [0, 0, 0, 0, 0]

/-- Bytes 12 to 15: target and physical address, 0 when absent. -/
def placeBytes : Option Place → List Byte
  | some p => byte p.target.val :: addrBytes p.addr
  | none => [0, 0, 0, 0]

/-- The 18 result bytes of LOG_HEAD and LOG_POP (TABLE 42). -/
def FaultRecord.layout (r : FaultRecord) : List Byte :=
  [byteAt r.seq 0, byteAt r.seq 1, byte r.info.cause.code, r.info.presence,
   byte ((r.info.org.map Fin.val).getD 0)] ++ accessBytes r.info.access ++
  [byte ((r.info.window.map Fin.val).getD 0), r.info.stamp.getD 0] ++ placeBytes r.info.place ++
  [r.info.detail.getD 0, r.repeats]

end Sys2Proof.Machine
end

