-- ==== Sys2Proof/Machine/Memory.lean ====
section
/-! DEFINITION. The bytes of the four targets, as one list of cells in canonical form. -/

namespace Sys2Proof.Machine

/-- The number of bytes behind the memory port: four targets of 16 MiB (R122). -/
def memorySpace : Nat := 67108864

/-- The key of the byte at address `a` of target `t`. -/
def cellKey (t : Target) (a : Addr) : Nat := t.val * 16777216 + a.toNat

/-- The byte at a key; a key that is not listed reads as the blank byte (log 6). -/
def Memory.read : List Host.Cell → Nat → Byte
  | [], _ => Config.blankByte
  | c :: m, k => if k = c.1 then c.2 else Memory.read m k

/-- Writing one byte; writing the blank byte removes the cell. -/
def Memory.write : List Host.Cell → Nat → Byte → List Host.Cell
  | [], k, v => if v = Config.blankByte then [] else [(k, v)]
  | c :: m, k, v =>
    if k < c.1 then (if v = Config.blankByte then c :: m else (k, v) :: c :: m)
    else if k = c.1 then (if v = Config.blankByte then m else (k, v) :: m)
    else c :: Memory.write m k v

/-- The canonical form: keys strictly rising and inside the space, and no cell equal to what an unlisted key reads as. -/
abbrev Memory.Wf (m : List Host.Cell) : Prop :=
  m.Pairwise (fun a b => a.1 < b.1) ∧ ∀ c ∈ m, c.2 ≠ Config.blankByte ∧ c.1 < memorySpace

/-- The byte at a place of a target. -/
def State.byteOf (s : State) (p : Place) : Byte := Memory.read s.mem (cellKey p.target p.addr)

end Sys2Proof.Machine
end

