-- ==== Sys2Proof/Machine/Port.lean ====
section
/-! DEFINITION. The memory port: beats, the start of an operation, recovery counts, and the bytes a beat moves. -/

namespace Sys2Proof.Machine

/-- The number of operations the memory queue holds at most (R119). -/
def queueCapacity : Nat := 8

/-- The number of forwarded operations of one originator that the memory queue holds at most (R43, R119). -/
def forwardCapacity : Nat := 4

/-! ## Operations (TABLE 31) -/

/-- The number of bytes an operation moves (TABLE 31). -/
def MemOp.length (op : MemOp) : Nat :=
  match op.body with
  | .forwardRead a _ => a.size.bytes
  | .forwardWrite _ bytes => bytes.length
  | .tableRead _ => 8
  | .statusWrite _ => 1

/-- The bytes an operation writes, from `p` on; none for a read. -/
def MemOp.data (op : MemOp) : List Byte :=
  match op.body with
  | .forwardRead _ _ => []
  | .forwardWrite _ bytes => bytes
  | .tableRead _ => []
  | .statusWrite v => [v]

/-- The operation writes. -/
def MemOp.isWrite (op : MemOp) : Bool :=
  match op.body with
  | .forwardRead _ _ => false
  | .forwardWrite _ _ => true
  | .tableRead _ => false
  | .statusWrite _ => true

/-- The operation is a posted write (R137). -/
def MemOp.isForwardWrite (op : MemOp) : Bool :=
  match op.body with
  | .forwardWrite _ _ => true
  | _ => false

/-- The originator of a forwarded operation; none for a table read or a status write (TABLE 31). -/
def MemOp.forwardOrg? (op : MemOp) : Option Originator :=
  match op.body with
  | .forwardRead a _ => some a.org
  | .forwardWrite a _ => some a.org
  | .tableRead _ => none
  | .statusWrite _ => none

/-- The number of forwarded operations of an originator in the memory queue, the one in progress among them (R43,
R119). -/
def Port.forwardedOf (p : Port) (o : Originator) : Nat := p.queue.countP fun op => decide (op.forwardOrg? = some o)

/-! ## Beats (R124, R125) -/

/-- The beats of `n` bytes from address `p`: one a byte on an 8-bit target, one a touched halfword on a 16-bit one
(R124), with the lanes of R125. -/
def beatsOf (w : Width) (p n : Nat) : List Beat :=
  match w with
  | .w8 => (List.range n).map fun k => { ma := BitVec.ofNat 24 (p + k), lane0 := true, lane1 := false }
  | .w16 =>
    (List.range ((p + n - 1) / 2 - p / 2 + 1)).map fun k =>
      { ma := BitVec.ofNat 24 (2 * (p / 2 + k))
        lane0 := decide (p ≤ 2 * (p / 2 + k)) && decide (2 * (p / 2 + k) < p + n)
        lane1 := decide (p ≤ 2 * (p / 2 + k) + 1) && decide (2 * (p / 2 + k) + 1 < p + n) }

/-- The byte addresses a beat moves, in ascending order: lane 0 at MA, lane 1 at MA + 1 (R125). -/
def Beat.addrs (b : Beat) : List Addr :=
  (if b.lane0 = true then [b.ma] else []) ++ (if b.lane1 = true then [b.ma + 1] else [])

/-- The lane enables as MLE (R125). -/
def Beat.lanes (b : Beat) : BitVec 2 := (if b.lane0 = true then 1 else 0) ||| (if b.lane1 = true then 2 else 0)

/-- The placed byte that a write puts at address `a` (R118). -/
def MemOp.byteFor (op : MemOp) (a : Addr) : Byte := op.data.getD (a - op.place.addr).toNat 0

/-- Memory after the strobe of a write beat (R126). -/
def MemOp.writeBeat (op : MemOp) (b : Beat) (m : List Host.Cell) : List Host.Cell :=
  b.addrs.foldl (fun m a => Memory.write m (cellKey op.place.target a) (op.byteFor a)) m

/-- The bytes a read beat gathers (R125). -/
def MemOp.readBeat (op : MemOp) (b : Beat) (m : List Host.Cell) : List Byte :=
  b.addrs.map fun a => Memory.read m (cellKey op.place.target a)

/-! ## Start and recovery (R123, R128) -/

/-- A beat begins with its address period; MA and MLE take its values (R126, R134). -/
def Port.beginBeat (p : Port) (timing : Timing) (gathered : List Byte) (b : Beat) (rest : List Beat) : Port :=
  { p with
    current := some { timing := timing, gathered := gathered, beat := b, rest := rest, phase := .address }
    ma := b.ma
    mle := b.lanes }

/-- The head operation starts: its target's timing record is read and it is divided into beats (R123, R124, R128). -/
def Port.start (p : Port) (op : MemOp) : Port :=
  match beatsOf (peek p.timing op.place.target).width op.place.addr.toNat op.length with
  | [] => p
  | b :: rest => p.beginBeat (peek p.timing op.place.target) [] b rest

/-- The sequencer looks at the head operation: it starts at once when its target's recovery count is 0, and waits in
RECOVERY otherwise (R128). -/
def Port.tryStart (p : Port) : Port :=
  match p.current, p.queue with
  | none, op :: _ => if peek p.recovery op.place.target = 0 then p.start op else p
  | _, _ => p

/-- An operation enters at the tail of the queue (R121) and starts when it can (R128). -/
def Port.enter (p : Port) (op : MemOp) : Port := ({ p with queue := p.queue ++ [op] }).tryStart

/-- `n` MCLK periods pass in which the select of `sel` is asserted: every other target's recovery count falls by 1 at
the end of each (R128). -/
def Port.elapse (p : Port) (n : Nat) (sel : Option Target) : Port :=
  { p with
    recovery := Vector.ofFn fun t =>
      if sel = some t then peek p.recovery t else BitVec.ofNat 2 ((peek p.recovery t).toNat - n) }

/-- The periods a beat still takes to its end when `x` more extend periods follow, or none when the beat cannot end so
(R126, R127). -/
def Progress.periodsToEnd (pr : Progress) (x : Nat) : Option Nat :=
  match pr.phase with
  | .address => if x ≤ pr.timing.extendLimit.toNat then some (1 + pr.timing.accessWait.toNat + x + 1) else none
  | .wait left => if x ≤ pr.timing.extendLimit.toNat then some (left + x + 1) else none
  | .extend n => if n + x ≤ pr.timing.extendLimit.toNat then some (1 + x + 1) else none
  | .strobe => if x = 0 then some 1 else none

/-- The periods a beat still takes to its abandonment, or none when its strobe period has begun (R127). -/
def Progress.periodsToAbandon (pr : Progress) : Option Nat :=
  match pr.phase with
  | .address => some (1 + pr.timing.accessWait.toNat + pr.timing.extendLimit.toNat)
  | .wait left => some (left + pr.timing.extendLimit.toNat)
  | .extend n => some (1 + (pr.timing.extendLimit.toNat - n))
  | .strobe => none

/-- The operation in progress leaves the queue, and its target's recovery count is set from the record it used
(R128, R129). -/
def Port.leave (p : Port) (pr : Progress) (op : MemOp) (rest : List MemOp) : Port :=
  { p with queue := rest, current := none, recovery := poke p.recovery op.place.target pr.timing.recovery }

end Sys2Proof.Machine
end

