-- ==== Sys2Proof/Machine/Ops.lean ====
section
/-! DEFINITION. The operations that several commands share, over the whole state: slots and contexts, refusals, wakes,
the end of a fetch, invalidation, the end of a memory operation, drains, ENGAGE and the phases of SOFT_RESET. -/

namespace Sys2Proof.Machine

/-! ## Reading and writing one record -/

/-- The context of an originator (R22). -/
def State.context (s : State) (o : Originator) : Context := peek s.contexts o

/-- The state with one context replaced. -/
def State.setContext (s : State) (o : Originator) (c : Context) : State := { s with contexts := poke s.contexts o c }

/-- The intake slot at an index (R44). -/
def State.slot (s : State) (i : SlotIx) : Slot := peek s.intake.slots i

/-- The state with one intake slot replaced. -/
def State.setSlot (s : State) (i : SlotIx) (x : Slot) : State :=
  { s with intake := { s.intake with slots := poke s.intake.slots i x } }

/-- The order list of an originator (R46). -/
def State.order (s : State) (o : Originator) : List SlotIx := peek s.intake.orders o

/-- A slot moved to another stage; its request fields do not change (R44). -/
def Slot.withStage (x : Slot) (st : Stage) : Slot :=
  match x with
  | .free => .free
  | .held a d _ => .held a d st

/-- The state with one slot moved to another stage. -/
def State.setStage (s : State) (i : SlotIx) (st : Stage) : State := s.setSlot i ((s.slot i).withStage st)

/-- The slot is FREE. -/
def Slot.isFree : Slot → Bool
  | .free => true
  | _ => false

/-- The slot is held by an originator (R42). -/
def Slot.heldBy (o : Originator) : Slot → Bool
  | .free => false
  | .held a _ _ => decide (a.org = o)

/-- The slot is QUEUED. -/
def Slot.isQueued : Slot → Bool
  | .held _ _ .queued => true
  | _ => false

/-- The slot is RESOLVING or WAIT_FETCH (R47). -/
def Slot.inResolution : Slot → Bool
  | .held _ _ .resolving => true
  | .held _ _ .waitFetch => true
  | _ => false

/-- The slot is RESOLVED. -/
def Slot.isResolved : Slot → Bool
  | .held _ _ (.resolved _) => true
  | _ => false

/-- The slot is ANSWER_READY. -/
def Slot.isAnswered : Slot → Bool
  | .held _ _ (.answerReady _ _) => true
  | _ => false

/-- The slot is RESOLVED, ISSUED or ANSWER_READY (R159). -/
def Slot.pastResolution : Slot → Bool
  | .held _ _ (.resolved _) => true
  | .held _ _ (.issued _) => true
  | .held _ _ (.answerReady _ _) => true
  | _ => false

/-- The translation that a slot keeps once it has one (R44). -/
def Stage.translation? : Stage → Option Translation
  | .resolved t => some t
  | .issued t => some t
  | .answerReady t _ => t
  | _ => none

/-- The first originator at or after the pointer that `p` names, wrapping from 3 to 0 (R48, R57, R120). -/
def roundRobin (ptr : Originator) (p : Originator → Bool) : Option Originator :=
  [ptr, ptr + 1, ptr + 2, ptr + 3].find? p

/-! ## What is open (R42, R47, R120) -/

/-- A soft reset is in progress. -/
def Sequence.inReset : Sequence → Bool
  | .none => false
  | .engaging => false
  | _ => true

/-- Admission is open: outside a pin reset and a soft reset (R42, R60, R62). Entry to the memory queue is open at the
same times (R120, R136, R138). -/
def State.isOpen (s : State) : Bool := !s.resetActive && !s.sequence.inReset

/-- Turns are given: outside a reset, ENGAGE and SOFT_RESET (R47). -/
def State.turnsGiven (s : State) : Bool := !s.resetActive && decide (s.sequence = .none)

/-! ## The engine -/

/-- A command ends: the engine enters COMPLETE with its result and result bytes (R170). -/
def State.finish (s : State) (r : ResultCode) (layout : List Byte) : State :=
  { s with engine := { s.engine with phase := .complete r (resultBytes layout) } }

/-- A long command is executing: last result BUSY, result bytes 0 (R170). -/
def State.execute (s : State) (c : LongCommand) : State :=
  { s with engine := { s.engine with phase := .executing c } }

/-! ## Refusals (R35, R37, R52) -/

/-- The log takes an offered record (R141). -/
def State.offer (s : State) (f : FaultInfo) : State := { s with log := s.log.offer f }

/-- A refusal with this cause counts against this context (R35). -/
def Context.counts (c : Context) (mode : Mode) (cause : Cause) : Bool :=
  decide (mode = .run) && cause.counted && decide (c.limit ≠ 0) &&
    (decide (c.state = .active) || decide (c.state = .suspended))

/-- The context after a counted refusal: the count rises by 1 and stays at the limit (R35); at the limit the originator
is QUARANTINED (R37). -/
def Context.afterCounted (c : Context) : Context :=
  { c with
    count := if c.count = c.limit then c.limit else c.count + 1
    state := if (if c.count = c.limit then c.limit else c.count + 1) = c.limit then .quarantined else c.state }

/-- The counting of a refusal (step 2 of R52). -/
def State.countRefusal (s : State) (o : Originator) (cause : Cause) : State :=
  if (s.context o).counts s.mode cause = true then s.setContext o (s.context o).afterCounted else s

/-- A refusal with this cause takes the originator into quarantine (R37). -/
def State.quarantines (s : State) (o : Originator) (cause : Cause) : Bool :=
  (s.context o).counts s.mode cause && decide ((s.context o).afterCounted.state = .quarantined)

/-- The records of a refusal: its own, and QUARANTINE_ENTERED behind it (R37, R141). -/
def State.logRefusal (s : State) (quarantined : Bool) (o : Originator) (limit : Byte) (f : FaultInfo) : State :=
  if quarantined = true then (s.offer f).offer (quarantineRecord o limit) else s.offer f

/-- A refusal given at a turn or at a wake (R52): counted, recorded, and the slot ANSWER_READY with its cause. -/
def State.refuse (s : State) (i : SlotIx) (a : Access) (cause : Cause) (stamp : Option Byte) (place : Option Place)
    (detail : Option Byte) : State :=
  ((s.countRefusal a.org cause).logRefusal (s.quarantines a.org cause) a.org (s.context a.org).limit
    (refusalRecord cause a stamp place detail)).setStage i (.answerReady none (.refused cause))

/-! ## Steps 4 to 6 (R18, R20, R109) -/

/-- Steps 4 to 6 against the descriptor of entry `e`: RESOLVED with its marks raised in the entry, or refused with the
STAMP of the descriptor (R49, R51, R109). -/
def State.resolveAgainst (s : State) (i : SlotIx) (a : Access) (e : EntryIx) (d : Descriptor) : State :=
  match d.evaluate a with
  | .pass t => { s.setStage i (.resolved t) with cache := s.cache.raiseMarks e a.kind }
  | .fail cause => s.refuse i a cause (some d.stamp) none none

/-! ## The end of a fetch (R93 to R100) -/

/-- How a fetch ends (TABLE 27); `fresh` says that the filled entry was not a STALE, pinned one. -/
inductive FetchOutcome where
  | valid (e : EntryIx) (d : Descriptor) (fresh : Bool)
  | absent (e : EntryIx) (fresh : Bool)
  | malformed (stamp : Byte)
  | readFailed (place : Place)
  | unstable
  deriving DecidableEq, Repr

/-- The result of PROBE for a translation (TABLE 56). -/
def probeTranslation (a : Access) (stamp : Byte) (t : Translation) (fetched : Bool) : List Byte :=
  [0, 0, byte t.place.target.val] ++ addrBytes t.place.addr ++
    [byteOfBool t.swap, byte (windowOf a.addr).val, stamp, 1 ||| (byteOfBool fetched <<< 1)]

/-- The result of PROBE for a refusal (TABLE 56). -/
def probeRefusal (a : Access) (cause : Cause) (stamp : Option Byte) (fetched : Bool) : List Byte :=
  [1, byte cause.code, 0, 0, 0, 0, 0, byte (windowOf a.addr).val, stamp.getD 0,
   byteOfBool stamp.isSome ||| (byteOfBool fetched <<< 1)]

/-- The result of PROBE from steps 4 to 6 (R183). -/
def probeVerdict (a : Access) (d : Descriptor) (fetched : Bool) : List Byte :=
  match d.evaluate a with
  | .pass t => probeTranslation a d.stamp t fetched
  | .fail cause => probeRefusal a cause (some d.stamp) fetched

/-- The result of a PIN or PROBE whose fetch failed (TABLE 54). -/
def failureLayout (k : Key) (cause : Cause) (place : Option Place) (reads : Byte) (stamp : Byte) : List Byte :=
  [byte cause.code, byte k.org.val, byte k.win.val] ++ placeBytes place ++ [reads, stamp]

/-- The failure result of an outcome; an install is no failure. -/
def FetchOutcome.failure? (k : Key) : FetchOutcome → Option (List Byte)
  | .valid _ _ _ => none
  | .absent _ _ => none
  | .malformed stamp => some (failureLayout k .badDescriptor none 0 stamp)
  | .readFailed p => some (failureLayout k .tableReadFail (some p) 0 0)
  | .unstable => some (failureLayout k .tableUnstable none (byte maxReads) 0)

/-- The wake of a request waiter (R51, TABLE 27). -/
def State.wakeRequest (s : State) (i : SlotIx) (o : FetchOutcome) : State :=
  match s.slot i with
  | .held a _ .waitFetch =>
    match o with
    | .valid e d _ => s.resolveAgainst i a e d
    | .absent _ _ => s.refuse i a .notPresent none none none
    | .malformed stamp => s.refuse i a .badDescriptor (some stamp) none none
    | .readFailed p => s.refuse i a .tableReadFail none (some p) none
    | .unstable => s.refuse i a .tableUnstable none none (some (byte maxReads))
  | _ => s

/-- The result of a PIN woken by an install (R79, R181): entry index, its state, and whether this command set the
flag. -/
def pinLayout (e : EntryIx) (code : Byte) (fresh : Bool) : List Byte := [byte e.val, code, byteOfBool fresh]

/-- The wake of the command being executed (R100). -/
def State.wakeCommand (s : State) (k : Key) (o : FetchOutcome) : State :=
  match s.engine.phase with
  | .executing (.pin _) =>
    match o with
    | .valid e _ fresh => s.finish .ok (pinLayout e 1 fresh)
    | .absent e fresh => s.finish .ok (pinLayout e 2 fresh)
    | _ => s.finish .fetchFailed ((o.failure? k).getD [])
  | .executing (.probe a) =>
    match o with
    | .valid _ d _ => s.finish .ok (probeVerdict a d true)
    | .absent _ _ => s.finish .ok (probeRefusal a .notPresent none true)
    | _ => s.finish .fetchFailed ((o.failure? k).getD [])
  | _ => s

/-- The wake of one waiter (R99, R100). -/
def State.wake (s : State) (k : Key) (o : FetchOutcome) (w : Waiter) : State :=
  match w with
  | .request i => s.wakeRequest i o
  | .command => s.wakeCommand k o

/-- A fetch ends: its waiters are woken in attach order and the slot is freed (R93, R99). -/
def State.endFetch (s : State) (i : FetchIx) (k : Key) (ws : List Waiter) (o : FetchOutcome) : State :=
  let s' := ws.foldl (fun s w => s.wake k o w) s
  { s' with fetch := s'.fetch.release i }

/-- The command being executed is a PIN. -/
def EnginePhase.isPin : EnginePhase → Bool
  | .executing (.pin _) => true
  | _ => false

/-- The waiters include a PIN (R70). -/
def State.pinWaits (s : State) (ws : List Waiter) : Bool := ws.contains .command && s.engine.phase.isPin

/-- The outcome of an install of a held result into entry `e`. -/
def Held.outcome (h : Held) (e : EntryIx) (fresh : Bool) : FetchOutcome :=
  match h with
  | .valid d _ => .valid e d fresh
  | .absent => .absent e fresh

/-- An install is made into entry `e`, which ends the fetch of slot `i` (R70, R79, R97): a STALE entry keeps its pin,
and a PIN among the waiters pins the entry in the same step. -/
def State.makeInstall (s : State) (i : FetchIx) (k : Key) (ws : List Waiter) (h : Held) (e : EntryIx) : State :=
  { s with
    cache := s.cache.install e (h.entry k ((s.cache.entry e).staleOf k || s.pinWaits ws)) }.endFetch i k ws
      (h.outcome e (!(s.cache.entry e).staleOf k))

/-- A completed fetch asks for an install; when no entry can take it, the slot enters INSTALLING and the install waits
(R69, R71, R97). -/
def State.installOrWait (s : State) (i : FetchIx) (k : Key) (ws : List Waiter) (n : Nat) (p : Place) (h : Held) :
    State :=
  match s.cache.choose k with
  | some e => s.makeInstall i k ws h e
  | none =>
    { s with
      fetch := { s.fetch.setSlot i (.installing k ws n p h) with installs := s.fetch.installs ++ [i] } }

/-! ## The install wait (R71) -/

/-- The oldest waiting install is made when an entry qualifies (R71). -/
def State.makeWaitingInstall (s : State) : State :=
  match s.fetch.installs with
  | [] => s
  | i :: rest =>
    match s.fetch.slot i with
    | .installing k ws _ _ h =>
      match s.cache.choose k with
      | some e => { s with fetch := { s.fetch with installs := rest } }.makeInstall i k ws h e
      | none => s
    | _ => s

/-- A waiting install is made at once when an entry qualifies, and the younger one is then examined again (R71): each
event is taken in the state in which no waiting install can be made (log 10). At most two installs wait, one for each
fetch slot. -/
def State.settle (s : State) : State :=
  if s.resetActive = true then s else s.makeWaitingInstall.makeWaitingInstall

/-! ## The judgement of a table read (R93 to R97) -/

/-- A read that was overtaken, or a held install that was voided: read again while fewer than five reads have been
made, else TABLE_UNSTABLE (R95, R97). -/
def State.reissueOrFail (s : State) (i : FetchIx) (k : Key) (ws : List Waiter) (n : Nat) : State :=
  if n < maxReads then { s with fetch := s.fetch.reissue i k ws n } else s.endFetch i k ws .unstable

/-- A table read of fetch slot `i` completed with its eight bytes (TABLE 26). After the acceptance of SOFT_RESET it is
taken without effect: the slot stays READING, phase ASKING, and asks for nothing (R103). -/
def State.fetchCompleted (s : State) (i : FetchIx) (bytes : List Byte) : State :=
  match s.fetch.slot i with
  | .reading k ws ov n (.queued p) =>
    if s.sequence.inReset = true then { s with fetch := s.fetch.setSlot i (.reading k ws ov n .asking) }
    else if ov = true then s.reissueOrFail i k ws n
    else
      match judgeBytes bytes with
      | .absent => s.installOrWait i k ws n p .absent
      | .malformed stamp => s.endFetch i k ws (.malformed stamp)
      | .valid d st => s.installOrWait i k ws n p (.valid d st)
  | _ => s

/-- A table read of fetch slot `i` failed (R94); after the acceptance of SOFT_RESET without effect (R103). -/
def State.fetchFailed (s : State) (i : FetchIx) : State :=
  match s.fetch.slot i with
  | .reading k ws ov n (.queued p) =>
    if s.sequence.inReset = true then { s with fetch := s.fetch.setSlot i (.reading k ws ov n .asking) }
    else s.endFetch i k ws (.readFailed p)
  | _ => s

/-! ## Invalidation (R72 to R77, R92, R105) -/

/-- What an invalidation covers. -/
inductive Coverage where
  | key (k : Key)
  | originator (o : Originator)
  | stamp (b : Byte)
  | all
  | write (p : Place) (n : Nat)
  deriving DecidableEq, Repr

/-- The keys covered: one (R74), an originator's (R75, R28), all (R77), or those whose descriptors a write touches
(R104). -/
def State.coversKey (s : State) (cov : Coverage) (k : Key) : Bool :=
  match cov with
  | .key k' => decide (k = k')
  | .originator o => decide (k.org = o)
  | .stamp _ => false
  | .all => true
  | .write p n => (s.context k.org).touches p n k.win

/-- The entries covered; by stamp the VALID entries with that STAMP (R76). -/
def State.coversEntry (s : State) (cov : Coverage) (e : Entry) : Bool :=
  match cov, e with
  | .stamp b, .valid _ _ d _ _ => decide (d.stamp = b)
  | .stamp _, _ => false
  | _, e => (e.key?.map (s.coversKey cov)).getD false

/-- The fetches in READING covered; by stamp every one (R76). -/
def State.coversFetch (s : State) (cov : Coverage) (k : Key) : Bool :=
  match cov with
  | .stamp _ => true
  | _ => s.coversKey cov k

/-- The waiting installs covered; by stamp those that hold a VALID descriptor with that STAMP (R72). -/
def State.coversInstall (s : State) (cov : Coverage) (f : FetchSlot) : Bool :=
  match f with
  | .installing k _ _ _ h =>
    match cov, h with
    | .stamp b, .valid d _ => decide (d.stamp = b)
    | .stamp _, .absent => false
    | _, _ => s.coversKey cov k
  | _ => false

/-- The waiting install of slot `i` is voided: it leaves the waiting order and the slot proceeds as after an overtaken
read (R72, R97). -/
def State.voidInstall (s : State) (i : FetchIx) : State :=
  match s.fetch.slot i with
  | .installing k ws n _ _ =>
    { s with fetch := { s.fetch with installs := s.fetch.installs.erase i } }.reissueOrFail i k ws n
  | _ => s

/-- An invalidation (R73, R105): covered entries become FREE or STALE, covered fetches in READING are overtaken, and
covered waiting installs are voided, the older first. -/
def State.invalidate (s : State) (cov : Coverage) : State :=
  (s.fetch.installs.filter fun i => s.coversInstall cov (s.fetch.slot i)).foldl State.voidInstall
    { s with
      cache := s.cache.invalidate (s.coversEntry cov)
      fetch := s.fetch.overtake (s.coversFetch cov) }

/-! ## Phases of SOFT_RESET (R61, R137, R162 to R164) and the switch of ENGAGE (R159) -/

/-- Every slot is FREE (R163). -/
def State.intakeEmpty (s : State) : Bool := allSlots.all fun i => (s.slot i).isFree

/-- RESET_CLEAR and the completion of SOFT_RESET (R164): cache, contexts and log cleared, mode BOOT, RESET_DONE stored,
pointers 0, sequence NONE, and the command ends with OK. -/
def State.resetClear (s : State) : State :=
  { s with
    cache := .reset
    contexts := Vector.replicate 4 .reset
    mode := .boot
    log := s.log.afterSoftReset s.port.discards
    port := { s.port with discards := 0, forwardPtr := 0 }
    intake := { s.intake with turnPtr := 0, responsePtr := 0 }
    sequence := .none }.finish .ok []

/-- RESET_ANSWER ends when the intake is empty (R163, R164). -/
def State.checkAnswered (s : State) : State :=
  if s.sequence = .resetAnswer ∧ s.intakeEmpty = true then s.resetClear else s

/-- The RESET refusal of one slot: every slot that is not FREE and not ANSWER_READY is refused RESET (R61). -/
def Slot.refuseReset : Slot → Slot
  | .free => .free
  | .held a d (.answerReady t x) => .held a d (.answerReady t x)
  | .held a d st => .held a d (.answerReady st.translation? (.refused .reset))

/-- The memory release (R137, R162): what is left of the queue is discarded and its posted writes counted, the fetch
unit is abandoned, the unanswered slots are refused RESET, and RESET_ANSWER begins. -/
def State.memoryRelease (s : State) : State :=
  State.checkAnswered
    { s with
      port := { s.port with queue := [], discards := (s.port.queue.filter MemOp.isForwardWrite).length }
      fetch := .reset
      intake := { s.intake with slots := everyPlace Slot.refuseReset s.intake.slots }
      sequence := .resetAnswer }

/-- The drain condition of ENGAGE: no slot is RESOLVED, ISSUED or ANSWER_READY (R159). -/
def State.bootDrained (s : State) : Bool := allSlots.all fun i => !(s.slot i).pastResolution

/-- The switch of ENGAGE, when its condition holds (R159). -/
def State.checkEngaged (s : State) : State :=
  if s.sequence = .engaging ∧ s.bootDrained = true then
    ({ s with mode := .run, sequence := .none }).finish .ok []
  else s

/-! ## The end of a memory operation (R129 to R133) -/

/-- After an operation has ended: the memory release in RESET_MEMORY (R137), else the next operation starts when it can
(R128). -/
def State.afterOperation (s : State) : State :=
  if s.sequence = .resetMemory then s.memoryRelease else { s with port := s.port.tryStart }

/-- The bytes of a completed FORWARD_READ go to its slot, ordered under its SWAP setting (R54, R129). -/
def State.answerRead (s : State) (i : SlotIx) (bytes : List Byte) : State :=
  match s.slot i with
  | .held _ _ (.issued t) => s.setStage i (.answerReady (some t) (.done (some (assemble t.swap bytes))))
  | _ => s

/-- A failed FORWARD_READ refuses its slot TARGET_TIMEOUT (R54, R130). -/
def State.timeoutRead (s : State) (i : SlotIx) : State :=
  match s.slot i with
  | .held _ _ (.issued t) => s.setStage i (.answerReady (some t) (.refused .targetTimeout))
  | _ => s

/-- The handoff of a completed operation (R129). -/
def State.handOver (s : State) (op : MemOp) (bytes : List Byte) : State :=
  match op.body with
  | .forwardRead _ i => s.answerRead i bytes
  | .forwardWrite _ _ => s
  | .tableRead i => s.fetchCompleted i bytes
  | .statusWrite _ => s

/-- The handoff of a failed operation (R130 to R133). -/
def State.handFailure (s : State) (op : MemOp) : State :=
  match op.body with
  | .forwardRead a i => (s.offer (operationRecord .targetTimeout a op.key op.place)).timeoutRead i
  | .forwardWrite a _ => s.offer (operationRecord .postedWriteLost a op.key op.place)
  | .tableRead i => s.fetchFailed i
  | .statusWrite _ => s.offer (writebackRecord op.key op.place)

/-- The beat under way ends with its strobe period (R126): its bytes are written or gathered, and the next beat begins,
or the operation completes and leaves the queue (R129). -/
def State.finishBeat (s : State) : State :=
  match s.port.current, s.port.queue with
  | some pr, op :: rest =>
    let gathered := if op.isWrite = true then pr.gathered else pr.gathered ++ op.readBeat pr.beat s.mem
    let mem := if op.isWrite = true then op.writeBeat pr.beat s.mem else s.mem
    match pr.rest with
    | b :: bs => { s with mem := mem, port := s.port.beginBeat pr.timing gathered b bs }
    | [] => (({ s with mem := mem, port := s.port.leave pr op rest }).handOver op gathered).afterOperation
  | _, _ => s

/-- The beat under way is abandoned, and its operation fails and leaves the queue (R127). -/
def State.abandonBeat (s : State) : State :=
  match s.port.current, s.port.queue with
  | some pr, op :: rest => (({ s with port := s.port.leave pr op rest }).handFailure op).afterOperation
  | _, _ => s

/-- `n` MCLK periods pass at the memory port (R128): the select of the operation in progress is asserted. -/
def State.elapse (s : State) (n : Nat) : State :=
  { s with
    port := s.port.elapse n
      (match s.port.current, s.port.queue with
       | some _, op :: _ => some op.place.target
       | _, _ => none) }

/-! ## Drains (R29) -/

/-- The drain set of the command being executed. -/
def LongCommand.withoutSlot (i : SlotIx) : LongCommand → LongCommand
  | .suspend o ds => .suspend o (ds.erase i)
  | .originatorOff o ds => .originatorOff o (ds.erase i)
  | c => c

/-- The command has a drain set, and it is empty (R29). -/
def LongCommand.drained : LongCommand → Bool
  | .suspend _ ds => ds.isEmpty
  | .originatorOff _ ds => ds.isEmpty
  | _ => false

/-- A long command that drains is held EXECUTING until its set is empty, and ends with OK then (R29). -/
def State.checkDrained (s : State) : State :=
  match s.engine.phase with
  | .executing c => if c.drained = true then s.finish .ok [] else s
  | _ => s

/-- The response of slot `i` has left: the request leaves the drain set (R58). -/
def State.leaveDrain (s : State) (i : SlotIx) : State :=
  match s.engine.phase with
  | .executing c => (s.execute (c.withoutSlot i)).checkDrained
  | _ => s

end Sys2Proof.Machine
end

