-- ==== Sys2Proof/Machine/Link.lean ====
section
/-! DEFINITION. Frames on the management link: CODE_BYTE_WHOLE, STATUS, UNKNOWN_COMMAND, and the end of a command
frame. -/

namespace Sys2Proof.Machine

/-- The reply of a STATUS frame is formed in one step, and REJECTED_BUSY is cleared (R169). -/
def State.formReply (s : State) : State :=
  { s with engine := { s.engine with rejectedBusy := false, link := .status s.statusReply } }

/-- The engine receives a command frame: the held result is discarded (R170). -/
def State.receive (s : State) (code : Byte) : State :=
  { s with engine := { s.engine with phase := .receiving code, link := .quiet } }

/-- A command frame is refused as busy (R171); `link` is what is then on the link. -/
def State.refuseBusy (s : State) (link : Link) : State :=
  { s with engine := { s.engine with rejectedBusy := true, link := link } }

/-- A frame that is ignored ends: nothing is executed (R171, R174). -/
def State.endIgnored (s : State) : State := { s with engine := { s.engine with link := .quiet } }

/-- A code byte that becomes whole while the reset input is active: the frame is ignored to its end (R174; log 26). -/
def State.codeByteInReset (s : State) (code : Byte) : State :=
  if code = statusCode then s.endIgnored else { s with engine := { s.engine with link := .ignored code } }

/-- A code byte becomes whole (R168, R170, R171); a second frame cannot begin while one is being received (R167). -/
def State.codeByte (s : State) (code : Byte) : State :=
  if s.resetActive = true then s.codeByteInReset code
  else if code = statusCode then s.formReply
  else
    match s.engine.phase with
    | .receiving _ => s
    | .executing _ => s.refuseBusy (.ignored code)
    | .idle => s.receive code
    | .complete _ _ => s.receive code

/-- CODE_BYTE_WHOLE (R170). -/
def execCodeByteWhole (code : Byte) (s : State) : Host.Outcome State Fault Refusal :=
  .next (s.settle.codeByte code)

/-- A STATUS frame: answered in every engine state; the port ignores the link while the reset input is active (R174). -/
def State.statusFrame (s : State) : State := if s.resetActive = true then s.endIgnored else s.formReply

/-- STATUS (R169). -/
def execStatus (s : State) : Host.Outcome State Fault Refusal := .next s.settle.statusFrame

/-! ## The end of a command frame (R168, R170) -/

/-- A received frame is judged at its end (R168): too short, or executed from its first bytes. -/
def State.judgeFrame (s : State) (code : Byte) (need : Nat) (args : List Byte) (run : State → State) : State :=
  if args.length < need then (s.receive code).finish .shortFrame [] else run (s.receive code)

/-- The end of a command frame with this code and these argument bytes. The frame being received is judged. A frame that
is ignored, or that ends while the reset input is active (R174), ends without effect. When no such frame is on the link,
the row is the whole frame: its code byte becomes whole first, and the frame is then refused as busy (R171) or judged
(R170; log 8). -/
def State.frameEnd (s : State) (code : Byte) (need : Nat) (args : List Byte) (run : State → State) : State :=
  if s.resetActive = true then s.endIgnored
  else
    match s.engine.phase with
    | .receiving c => if c = code then s.judgeFrame code need args run else s
    | .executing _ => if s.engine.link = .ignored code then s.endIgnored else s.refuseBusy .quiet
    | .idle => if s.engine.link = .ignored code then s.endIgnored else s.judgeFrame code need args run
    | .complete _ _ => if s.engine.link = .ignored code then s.endIgnored else s.judgeFrame code need args run

/-- A command frame with this code is judged at its end: the reset input is not active, and either the engine is
receiving the frame, or it is IDLE or COMPLETE and no frame of this code is being ignored (R168, R170, R171). -/
def State.judges (s : State) (code : Byte) : Bool :=
  !s.resetActive &&
    match s.engine.phase with
    | .receiving c => decide (c = code)
    | .executing _ => false
    | .idle => decide (s.engine.link ≠ .ignored code)
    | .complete _ _ => decide (s.engine.link ≠ .ignored code)

/-- The end of a frame whose code names no command (R168). -/
def State.unknownFrame (s : State) (code : Byte) : State :=
  if codeUnknown code = true then s.frameEnd code 0 [] fun s => s.finish .unknownCommand [] else s

/-- UNKNOWN_COMMAND (R168). -/
def execUnknownCommand (code : Byte) (s : State) : Host.Outcome State Fault Refusal :=
  .next (s.settle.unknownFrame code)

end Sys2Proof.Machine
end

