-- ==== Sys2Proof/Machine/CacheCommands.lean ====
section
/-! DEFINITION. Commands on the cache: INVALIDATE and its three wider forms, PIN, UNPIN, CACHE_READ, PROBE. -/

namespace Sys2Proof.Machine

/-- The number of pinned entries at most (R66). -/
def maxPins : Nat := 12

/-! ## Invalidation (R74 to R77, R179) -/

/-- An invalidation command: it acts in one step and ends with OK and the number of entries it turned FREE or STALE
(R73, R179). -/
def State.runInvalidation (s : State) (cov : Coverage) : State :=
  (s.invalidate cov).finish .ok [byte (s.cache.invalidatedCount (s.coversEntry cov))]

/-- INVALIDATE (R74). -/
def State.runInvalidate (s : State) (args : List Byte) : State :=
  match keyArg args with
  | some k => s.runInvalidation (.key k)
  | none => s.finish .badArgument []

/-- INVALIDATE_ORIGINATOR (R75). -/
def State.runInvalidateOriginator (s : State) (args : List Byte) : State :=
  match originatorArg args 0 with
  | some o => s.runInvalidation (.originator o)
  | none => s.finish .badArgument []

/-! ## Pins (R78 to R80, R181) -/

/-- The cache after a lookup: a hit moves its entry to the front (R67, R68). -/
def Cache.lookedUp (c : Cache) (k : Key) : Cache :=
  match c.find k with
  | some e => c.touch e
  | none => c

/-- PIN (R78, R181). -/
def State.runPin (s : State) (args : List Byte) : State :=
  match keyArg args with
  | none => s.finish .badArgument []
  | some k =>
    if (s.context k.org).state = .off ∨ (s.context k.org).windowCount.val ≤ k.win.val then s.finish .wrongState []
    else if s.cache.pinnedOf k = none ∧ maxPins ≤ s.cache.pinCount then
      ({ s with cache := s.cache.lookedUp k }).finish .noRoom []
    else
      match s.cache.find k with
      | some e =>
        ({ s with cache := (s.cache.touch e).pin e }).finish .ok
          (pinLayout e (s.cache.entry e).code (!(s.cache.entry e).pinned))
      | none => { s.execute (.pin k) with fetch := s.fetch.placeMiss k .command }

/-- UNPIN (R80, R181). -/
def State.runUnpin (s : State) (args : List Byte) : State :=
  match keyArg args with
  | none => s.finish .badArgument []
  | some k =>
    match s.cache.pinnedOf k with
    | some e => ({ s with cache := s.cache.unpin e }).finish .ok []
    | none => s.finish .notFound []

/-- CACHE_READ (R81, R182). -/
def State.runCacheRead (s : State) (args : List Byte) : State :=
  if h : arg args 0 < 16 then s.finish .ok (s.cache.readLayout ⟨arg args 0, h⟩) else s.finish .badArgument []

/-! ## PROBE (R21, R183) -/

/-- PROBE against a window below the count: the lookup decides, or the fetch of the key is waited for (R183). -/
def State.probeLookup (s : State) (a : Access) : State :=
  match s.cache.find a.key with
  | some e =>
    match s.cache.entry e with
    | .valid _ _ d _ _ => ({ s with cache := s.cache.touch e }).finish .ok (probeVerdict a d false)
    | _ => ({ s with cache := s.cache.touch e }).finish .ok (probeRefusal a .notPresent none false)
  | none => { s.execute (.probe a) with fetch := s.fetch.placeMiss a.key .command }

/-- PROBE (R183). -/
def State.runProbe (s : State) (args : List Byte) : State :=
  match probeArgs args with
  | none => s.finish .badArgument []
  | some a =>
    if (s.context a.org).state = .off ∨ (s.context a.org).windowCount = 0 then s.finish .wrongState []
    else if (s.context a.org).windowCount.val ≤ (windowOf a.addr).val then
      s.finish .ok (probeRefusal a .noWindow none false)
    else s.probeLookup a

/-! ## The frames -/

/-- INVALIDATE, code 0x20. -/
def execInvalidate (args : List Byte) (s : State) : Host.Outcome State Fault Refusal :=
  .next (s.settle.frameEnd 0x20 2 args fun s => s.runInvalidate args)

/-- INVALIDATE_ORIGINATOR, code 0x21. -/
def execInvalidateOriginator (args : List Byte) (s : State) : Host.Outcome State Fault Refusal :=
  .next (s.settle.frameEnd 0x21 1 args fun s => s.runInvalidateOriginator args)

/-- INVALIDATE_STAMP, code 0x22 (R76): every stamp is in range. -/
def execInvalidateStamp (args : List Byte) (s : State) : Host.Outcome State Fault Refusal :=
  .next (s.settle.frameEnd 0x22 1 args fun s => s.runInvalidation (.stamp (args.getD 0 0)))

/-- INVALIDATE_ALL, code 0x23 (R77). -/
def execInvalidateAll (args : List Byte) (s : State) : Host.Outcome State Fault Refusal :=
  .next (s.settle.frameEnd 0x23 0 args fun s => s.runInvalidation .all)

/-- PIN, code 0x24. -/
def execPin (args : List Byte) (s : State) : Host.Outcome State Fault Refusal :=
  .next (s.settle.frameEnd 0x24 2 args fun s => s.runPin args)

/-- UNPIN, code 0x25. -/
def execUnpin (args : List Byte) (s : State) : Host.Outcome State Fault Refusal :=
  .next (s.settle.frameEnd 0x25 2 args fun s => s.runUnpin args)

/-- CACHE_READ, code 0x26. -/
def execCacheRead (args : List Byte) (s : State) : Host.Outcome State Fault Refusal :=
  .next (s.settle.frameEnd 0x26 1 args fun s => s.runCacheRead args)

/-- PROBE, code 0x28. -/
def execProbe (args : List Byte) (s : State) : Host.Outcome State Fault Refusal :=
  .next (s.settle.frameEnd 0x28 6 args fun s => s.runProbe args)

end Sys2Proof.Machine
end

