-- ==== Sys2Proof/Machine/Contexts.lean ====
section
/-! DEFINITION. Commands on contexts: GET_CONTEXT, SET_CONTEXT, ORIGINATOR_ON, ORIGINATOR_OFF, SUSPEND, RESUME,
RELEASE_QUARANTINE. -/

namespace Sys2Proof.Machine

/-- The seven result bytes of GET_CONTEXT (TABLE 53). -/
def Context.layout (c : Context) : List Byte :=
  [c.state.code, byte c.tableTarget.val, byte (c.tableBase.toNat % 256), byte (c.tableBase.toNat / 256),
   byte c.windowCount.val, c.limit, c.count]

/-- GET_CONTEXT (R22, R177). -/
def State.runGetContext (s : State) (args : List Byte) : State :=
  match originatorArg args 0 with
  | some o => s.finish .ok (s.context o).layout
  | none => s.finish .badArgument []

/-- SET_CONTEXT is accepted: in BOOT in every state, in RUN in OFF and SUSPENDED (R28). -/
def State.contextWritable (s : State) (o : Originator) : Bool :=
  decide (s.mode = .boot) || decide ((s.context o).state = .off) || decide ((s.context o).state = .suspended)

/-- The context that SET_CONTEXT leaves: the state as it was, the refusal count 0 (R28). -/
def Context.written (c : Context) (a : ContextArgs) : Context :=
  { state := c.state, tableTarget := a.tableTarget, tableBase := a.tableBase, windowCount := a.windowCount,
    limit := a.limit, count := 0 }

/-- SET_CONTEXT (R28, R177). -/
def State.runSetContext (s : State) (args : List Byte) : State :=
  match contextArgs args with
  | some a =>
    if s.contextWritable a.org = true then
      ((s.setContext a.org ((s.context a.org).written a)).invalidate (.originator a.org)).finish .ok []
    else s.finish .wrongState []
  | none => s.finish .badArgument []

/-- The state with the state of one originator changed. -/
def State.setOriginator (s : State) (o : Originator) (x : OriginatorState) : State :=
  s.setContext o { s.context o with state := x }

/-- ORIGINATOR_ON (R30). -/
def State.runOriginatorOn (s : State) (args : List Byte) : State :=
  match originatorArg args 0 with
  | some o =>
    if (s.context o).state = .off ∧ (s.context o).windowCount ≠ 0 then (s.setOriginator o .active).finish .ok []
    else s.finish .wrongState []
  | none => s.finish .badArgument []

/-- ORIGINATOR_OFF (R29, R33): the drain set is every admitted request still without its response. -/
def State.runOriginatorOff (s : State) (args : List Byte) : State :=
  match originatorArg args 0 with
  | some o =>
    if (s.context o).state ≠ .off then
      ((s.setOriginator o .off).execute (.originatorOff o (s.order o))).checkDrained
    else s.finish .wrongState []
  | none => s.finish .badArgument []

/-- SUSPEND (R29, R31). -/
def State.runSuspend (s : State) (args : List Byte) : State :=
  match originatorArg args 0 with
  | some o =>
    if (s.context o).state = .active then
      ((s.setOriginator o .suspended).execute (.suspend o (s.order o))).checkDrained
    else s.finish .wrongState []
  | none => s.finish .badArgument []

/-- RESUME (R32). -/
def State.runResume (s : State) (args : List Byte) : State :=
  match originatorArg args 0 with
  | some o =>
    if (s.context o).state = .suspended then (s.setOriginator o .active).finish .ok [] else s.finish .wrongState []
  | none => s.finish .badArgument []

/-- RELEASE_QUARANTINE (R34). -/
def State.runReleaseQuarantine (s : State) (args : List Byte) : State :=
  match originatorArg args 0 with
  | some o =>
    if (s.context o).state = .quarantined then
      (s.setContext o { s.context o with state := .active, count := 0 }).finish .ok []
    else s.finish .wrongState []
  | none => s.finish .badArgument []

/-- GET_CONTEXT, code 0x08. -/
def execGetContext (args : List Byte) (s : State) : Host.Outcome State Fault Refusal :=
  .next (s.settle.frameEnd 0x08 1 args fun s => s.runGetContext args)

/-- SET_CONTEXT, code 0x09. -/
def execSetContext (args : List Byte) (s : State) : Host.Outcome State Fault Refusal :=
  .next (s.settle.frameEnd 0x09 6 args fun s => s.runSetContext args)

/-- ORIGINATOR_ON, code 0x10. -/
def execOriginatorOn (args : List Byte) (s : State) : Host.Outcome State Fault Refusal :=
  .next (s.settle.frameEnd 0x10 1 args fun s => s.runOriginatorOn args)

/-- ORIGINATOR_OFF, code 0x11. -/
def execOriginatorOff (args : List Byte) (s : State) : Host.Outcome State Fault Refusal :=
  .next (s.settle.frameEnd 0x11 1 args fun s => s.runOriginatorOff args)

/-- SUSPEND, code 0x12. -/
def execSuspend (args : List Byte) (s : State) : Host.Outcome State Fault Refusal :=
  .next (s.settle.frameEnd 0x12 1 args fun s => s.runSuspend args)

/-- RESUME, code 0x13. -/
def execResume (args : List Byte) (s : State) : Host.Outcome State Fault Refusal :=
  .next (s.settle.frameEnd 0x13 1 args fun s => s.runResume args)

/-- RELEASE_QUARANTINE, code 0x14. -/
def execReleaseQuarantine (args : List Byte) (s : State) : Host.Outcome State Fault Refusal :=
  .next (s.settle.frameEnd 0x14 1 args fun s => s.runReleaseQuarantine args)

end Sys2Proof.Machine
end

