-- ==== Sys2Proof/Machine/Entry.lean ====
section
/-! DEFINITION. The entry arbiter of the memory queue: FORWARD_READ_ENTRY, FORWARD_WRITE_ENTRY, TABLE_READ_ENTRY,
STATUS_WRITE_ENTRY. -/

namespace Sys2Proof.Machine

/-- Where the descriptor of a key lies under the contexts as they stand (R3). -/
def State.descriptorPlace (s : State) (k : Key) : Place := (s.context k.org).descriptorPlace k.win

/-- Where byte 7 of the descriptor of a key lies (R111). -/
def State.statusPlace (s : State) (k : Key) : Place := (s.context k.org).statusPlace k.win

/-- `k'` is a sharer of `k`: another key whose descriptor occupies the same bytes (R112; log 13). -/
def State.sharer (s : State) (k k' : Key) : Bool :=
  decide (k' ≠ k) && decide (s.descriptorPlace k' = s.descriptorPlace k)

/-- The status write of entry `e` is deferred (R113). -/
def State.deferred (s : State) (e : EntryIx) : Bool :=
  match s.cache.entry e with
  | .valid k _ _ _ _ => s.fetch.readQueuedFor (s.sharer k)
  | _ => false

/-- The entry whose status write the write-back offers: the oldest in the asking order that is not deferred (R110). -/
def State.statusOffer (s : State) : Option EntryIx := s.cache.asking.find? fun e => !s.deferred e

/-- The memory queue holds fewer than 4 forwarded operations of the originator of the request in slot `i` (R43,
R119). -/
def State.hasForwardPlace (s : State) (i : SlotIx) : Bool :=
  match s.slot i with
  | .held a _ _ => decide (s.port.forwardedOf a.org < forwardCapacity)
  | .free => false

/-- The slot an originator offers: its oldest RESOLVED slot (R53), while the memory queue holds fewer than 4 forwarded
operations of the originator (R43, R119). That the bound acts here, so that the slot stays RESOLVED and is offered when
one of the four has left, is the model's choice (log 29). -/
def State.forwardOffer (s : State) (o : Originator) : Option SlotIx :=
  ((s.order o).find? fun i => (s.slot i).isResolved).filter s.hasForwardPlace

/-- What the arbiter grants (R120). -/
inductive Grant where
  | tableRead (i : FetchIx)
  | statusWrite (e : EntryIx)
  | forward (o : Originator) (i : SlotIx)
  deriving DecidableEq, Repr

/-- The forwarded access the arbiter would grant: round-robin among the offering originators (R120). -/
def State.forwardGrant (s : State) : Option Grant :=
  match roundRobin s.port.forwardPtr fun o => (s.forwardOffer o).isSome with
  | some o => (s.forwardOffer o).map (Grant.forward o)
  | none => none

/-- The grant of the arbiter: entry is open, the queue has room, and table reads come before status writes before
forwarded accesses (R120). -/
def State.grant (s : State) : Option Grant :=
  if s.isOpen = true ∧ s.port.queue.length < queueCapacity then
    match s.fetch.asks.head? with
    | some i => some (.tableRead i)
    | none =>
      match s.statusOffer with
      | some e => some (.statusWrite e)
      | none => s.forwardGrant
  else none

/-! ## The four entries (R121) -/

/-- The entry of a FORWARD_READ: the slot becomes ISSUED (R54). -/
def State.enterRead (s : State) (o : Originator) (i : SlotIx) (a : Access) (t : Translation) : State :=
  { s.setStage i (.issued t) with
    port := ({ s.port with forwardPtr := o + 1 }).enter { place := t.place, key := t.key, body := .forwardRead a i } }

/-- The entry of a FORWARD_WRITE: the slot is posted DONE (R55), and the table watch compares the bytes (R104, R105). -/
def State.enterWrite (s : State) (o : Originator) (i : SlotIx) (a : Access) (d : Option Data) (t : Translation) :
    State :=
  { s.setStage i (.answerReady (some t) (.done none)) with
    port := ({ s.port with forwardPtr := o + 1 }).enter
      { place := t.place, key := t.key,
        body := .forwardWrite a (placedBytes t.swap a.size (d.getD 0)) } }.invalidate (.write t.place a.size.bytes)

/-- The entry of a TABLE_READ: the address is formed from the context as it stands, and the phase becomes QUEUED
(R91). -/
def State.enterTableRead (s : State) (i : FetchIx) : State :=
  match s.fetch.slot i with
  | .reading k ws ov n _ =>
    { s with
      fetch := { s.fetch.setSlot i (.reading k ws ov n (.queued (s.descriptorPlace k))) with
        asks := s.fetch.asks.erase i }
      port := s.port.enter { place := s.descriptorPlace k, key := k, body := .tableRead i } }
  | _ => s

/-- The entry of a STATUS_WRITE: the value is formed, the entry takes it, and the sharers are updated (R111, R112). -/
def State.enterStatusWrite (s : State) (e : EntryIx) : State :=
  match s.cache.entry e with
  | .valid k _ _ _ _ =>
    { s with
      cache := s.cache.sendStatus e (s.sharer k)
      fetch := s.fetch.share (s.sharer k) (s.cache.entry e).statusValue
      port := s.port.enter
        { place := s.statusPlace k, key := k, body := .statusWrite (s.cache.entry e).statusValue } }
  | _ => s

/-- The entry of a forwarded access, when the granted slot holds one of the kind the row names. -/
def State.enterForward (s : State) (write : Bool) (o : Originator) (i : SlotIx) : State :=
  match s.slot i with
  | .held a d (.resolved t) =>
    if decide (a.kind = .write) = write then
      (if write = true then s.enterWrite o i a d t else s.enterRead o i a t)
    else s
  | _ => s

/-- FORWARD_READ_ENTRY (R121). -/
def execForwardReadEntry (s : State) : Host.Outcome State Fault Refusal :=
  .next (match s.settle.grant with
    | some (.forward o i) => s.settle.enterForward false o i
    | _ => s.settle)

/-- FORWARD_WRITE_ENTRY (R121). -/
def execForwardWriteEntry (s : State) : Host.Outcome State Fault Refusal :=
  .next (match s.settle.grant with
    | some (.forward o i) => s.settle.enterForward true o i
    | _ => s.settle)

/-- TABLE_READ_ENTRY (R91). -/
def execTableReadEntry (s : State) : Host.Outcome State Fault Refusal :=
  .next (match s.settle.grant with
    | some (.tableRead i) => s.settle.enterTableRead i
    | _ => s.settle)

/-- STATUS_WRITE_ENTRY (R111). -/
def execStatusWriteEntry (s : State) : Host.Outcome State Fault Refusal :=
  .next (match s.settle.grant with
    | some (.statusWrite e) => s.settle.enterStatusWrite e
    | _ => s.settle)

end Sys2Proof.Machine
end

