-- ==== Sys2Proof/Machine/FrontPort.lean ====
section
/-! DEFINITION. The front port: ADMISSION, RESPONSE_PRESENTED, RESPONSE_DEPARTURE. -/

namespace Sys2Proof.Machine

/-! ## Admission (R40 to R43) -/

/-- The FREE slot with the lowest index (R42). -/
def State.lowestFree (s : State) : Option SlotIx := allSlots.find? fun i => (s.slot i).isFree

/-- The number of slots an originator holds, whatever their states (R42). -/
def State.heldCount (s : State) (o : Originator) : Nat := (allSlots.filter fun i => (s.slot i).heldBy o).length

/-- The slot into which a request of `o` is admitted: admission is open, a slot is FREE, and `o` holds fewer than 4
(R42). -/
def State.admissionSlot (s : State) (o : Originator) : Option SlotIx :=
  if s.isOpen = true ∧ s.heldCount o < 4 then s.lowestFree else none

/-- Admission into slot `i`: the fields are kept, the slot is QUEUED and joins the tail of its order list, and the
request channel is free (R40, R42, R46). -/
def State.acceptInto (s : State) (i : SlotIx) (r : FrontRequest) : State :=
  { s with
    waiting := none
    intake := { s.intake with
      slots := poke s.intake.slots i (.held (presentedAccess r) (keptData r) .queued)
      orders := poke s.intake.orders r.org (s.order r.org ++ [i]) } }

/-- A presented request is admitted when it can be, and otherwise waits at the front port (R41, R43). -/
def State.present (s : State) (r : FrontRequest) : State :=
  match s.admissionSlot r.org with
  | some i => s.acceptInto i r
  | none => { s with waiting := some r }

/-- The upstream bus presents `r`, in the place of one that waited (R41), or goes on presenting the one that waits. -/
def State.presentOn (s : State) (r : Option FrontRequest) : State :=
  match r, s.waiting with
  | some r, _ => s.present r
  | none, some r => s.present r
  | none, none => s

/-- ADMISSION (R42). -/
def execAdmission (r : Option FrontRequest) (s : State) : Host.Outcome State Fault Refusal := .next (s.settle.presentOn r)

/-! ## Responses (R56 to R58) -/

/-- An originator has a presentable response: the head of its order list is ANSWER_READY (R56). -/
def State.presentable (s : State) (o : Originator) : Bool :=
  match (s.order o).head? with
  | some i => (s.slot i).isAnswered
  | none => false

/-- The response channel arbiter presents a response when none is presented (R57). -/
def State.presentResponse (s : State) : State :=
  if s.resetActive = true ∨ s.intake.presented ≠ none then s
  else
    match roundRobin s.intake.responsePtr s.presentable with
    | some o => { s with intake := { s.intake with presented := (s.order o).head?, responsePtr := o + 1 } }
    | none => s

/-- RESPONSE_PRESENTED (R57). -/
def execResponsePresented (s : State) : Host.Outcome State Fault Refusal := .next s.settle.presentResponse

/-- Slot `i`, held by originator `o`, leaves its order list and becomes FREE, and the response channel is free (R58). -/
def State.vacate (s : State) (i : SlotIx) (o : Originator) : State :=
  { s with
    intake := { s.intake with
      slots := poke s.intake.slots i .free
      orders := poke s.intake.orders o ((s.order o).erase i)
      presented := none } }

/-- The presented response leaves; drains, ENGAGE and SOFT_RESET re-examine their conditions (R58). Nothing is presented
while the reset input is active (R59). -/
def State.depart (s : State) : State :=
  if s.resetActive = true then s
  else
    match s.intake.presented with
    | none => s
    | some i =>
      match s.slot i with
      | .free => s
      | .held a _ _ => ((((s.vacate i a.org).leaveDrain i).checkEngaged).checkAnswered)

/-- RESPONSE_DEPARTURE (R58): the upstream bus gives FRACK. -/
def execResponseDeparture (s : State) : Host.Outcome State Fault Refusal := .next s.settle.depart

end Sys2Proof.Machine
end

