-- ==== Sys2Proof/Machine/LogCommands.lean ====
section
/-! DEFINITION. Commands on the fault log: LOG_HEAD, LOG_POP, LOG_CLEAR. -/

namespace Sys2Proof.Machine

/-- LOG_HEAD (R145, R184). -/
def State.runLogHead (s : State) : State :=
  match s.log.records with
  | r :: _ => s.finish .ok r.layout
  | [] => s.finish .notFound []

/-- LOG_POP (R146, R184). -/
def State.runLogPop (s : State) : State :=
  match s.log.records with
  | r :: _ => ({ s with log := s.log.pop }).finish .ok r.layout
  | [] => s.finish .notFound []

/-- LOG_CLEAR (R147, R184). -/
def State.runLogClear (s : State) : State := ({ s with log := s.log.clear }).finish .ok []

/-- LOG_HEAD, code 0x30. -/
def execLogHead (args : List Byte) (s : State) : Host.Outcome State Fault Refusal :=
  .next (s.settle.frameEnd 0x30 0 args State.runLogHead)

/-- LOG_POP, code 0x31. -/
def execLogPop (args : List Byte) (s : State) : Host.Outcome State Fault Refusal :=
  .next (s.settle.frameEnd 0x31 0 args State.runLogPop)

/-- LOG_CLEAR, code 0x32. -/
def execLogClear (args : List Byte) (s : State) : Host.Outcome State Fault Refusal :=
  .next (s.settle.frameEnd 0x32 0 args State.runLogClear)

end Sys2Proof.Machine
end

