-- ==== Sys2Proof/Machine/MemoryEvents.lean ====
section
/-! DEFINITION. Events of the memory port and of the install wait: RECOVERY_EXPIRY, BEAT_COMPLETE,
FORWARD_READ_COMPLETE, WRITE_OPERATION_COMPLETE, TABLE_READ_COMPLETE, EXTEND_LIMIT_EXPIRY, WAITING_INSTALL_MADE, and
the tick of MCLK. -/

namespace Sys2Proof.Machine

/-- RECOVERY (TABLE 34): an operation waits at the head of the queue and none is in progress. The recovery count of its
target, when it is not 0. -/
def State.recoveryLeft (s : State) : Option Nat :=
  match s.port.current, s.port.queue with
  | none, op :: _ =>
    if peek s.port.recovery op.place.target = 0 then none else some (peek s.port.recovery op.place.target).toNat
  | _, _ => none

/-- The periods that the head's target still recovers pass, and the head operation starts (R128). -/
def State.expireRecovery (s : State) : State :=
  if s.resetActive = true then s
  else
    match s.recoveryLeft with
    | some n => { s.elapse n with port := (s.elapse n).port.tryStart }
    | none => s

/-- RECOVERY_EXPIRY (R128). -/
def execRecoveryExpiry (s : State) : Host.Outcome State Fault Refusal := .next s.settle.expireRecovery

/-- The kinds of ending that the beat rows name. -/
inductive BeatEnd where
  | notLast
  | readDone
  | writeDone
  | tableReadDone
  deriving DecidableEq, Repr

/-- The ending to which the beat under way comes when it completes. -/
def State.beatEnd (s : State) : Option BeatEnd :=
  match s.port.current, s.port.queue with
  | some pr, op :: _ =>
    if pr.rest ≠ [] then some .notLast
    else
      match op.body with
      | .forwardRead _ _ => some .readDone
      | .forwardWrite _ _ => some .writeDone
      | .tableRead _ => some .tableReadDone
      | .statusWrite _ => some .writeDone
  | _, _ => none

/-- The periods that the beat under way still takes when `x` more extend periods follow (R126). -/
def State.periodsToEnd (s : State) (x : Nat) : Option Nat := s.port.current.bind fun pr => pr.periodsToEnd x

/-- The beat under way completes after `x` more extend periods, when it comes to the ending named (R126, R129). -/
def State.completeBeat (s : State) (want : BeatEnd) (x : Nat) : State :=
  if s.resetActive = true ∨ s.beatEnd ≠ some want then s
  else
    match s.periodsToEnd x with
    | some n => (s.elapse n).finishBeat
    | none => s

/-- BEAT_COMPLETE (R126). -/
def execBeatComplete (x : Nat) (s : State) : Host.Outcome State Fault Refusal :=
  .next (s.settle.completeBeat .notLast x)

/-- FORWARD_READ_COMPLETE (R129). -/
def execForwardReadComplete (x : Nat) (s : State) : Host.Outcome State Fault Refusal :=
  .next (s.settle.completeBeat .readDone x)

/-- WRITE_OPERATION_COMPLETE (R129). -/
def execWriteOperationComplete (x : Nat) (s : State) : Host.Outcome State Fault Refusal :=
  .next (s.settle.completeBeat .writeDone x)

/-- TABLE_READ_COMPLETE (R93). -/
def execTableReadComplete (x : Nat) (s : State) : Host.Outcome State Fault Refusal :=
  .next (s.settle.completeBeat .tableReadDone x)

/-- The periods to the abandonment of the beat under way pass, and its operation fails (R127). -/
def State.expireExtend (s : State) : State :=
  if s.resetActive = true then s
  else
    match s.port.current.bind Progress.periodsToAbandon with
    | some n => (s.elapse n).abandonBeat
    | none => s

/-- EXTEND_LIMIT_EXPIRY (R127). -/
def execExtendLimitExpiry (s : State) : Host.Outcome State Fault Refusal := .next s.settle.expireExtend

/-! ## The install wait (R71) -/

/-- WAITING_INSTALL_MADE (R71). -/
def execWaitingInstallMade (s : State) : Host.Outcome State Fault Refusal :=
  .next (if s.resetActive = true then s else s.makeWaitingInstall)

/-! ## One period of MCLK (R126, R127, R128; log 2) -/

/-- The state with the beat under way in another period. -/
def State.setPhase (s : State) (pr : Progress) (ph : BeatPhase) : State :=
  { s with port := { s.port with current := some { pr with phase := ph } } }

/-- MEXT is sampled after `n` extend periods (R127): its level is a free value (log 4). Inactive: the strobe period
follows; active: an extend period, or the beat is abandoned at the limit. -/
def State.sampleExtend (s : State) (pr : Progress) (n : Nat) : State :=
  if Config.mextActive s.freeCount = true then
    (if pr.timing.extendLimit.toNat ≤ n then { s with freeCount := s.freeCount + 1 }.abandonBeat
     else { s with freeCount := s.freeCount + 1 }.setPhase pr (.extend (n + 1)))
  else { s with freeCount := s.freeCount + 1 }.setPhase pr .strobe

/-- The period that is running ends. -/
def State.endPeriod (s : State) (pr : Progress) : State :=
  match pr.phase with
  | .address =>
    if pr.timing.accessWait = 0 then s.sampleExtend pr 0 else s.setPhase pr (.wait pr.timing.accessWait.toNat)
  | .wait left => if left ≤ 1 then s.sampleExtend pr 0 else s.setPhase pr (.wait (left - 1))
  | .extend n => s.sampleExtend pr n
  | .strobe => s.finishBeat

/-- One MCLK period passes at the memory port: recovery counts fall (R128), and the beat under way moves on (R126), or
a head operation whose target has recovered starts (R128). -/
def State.period (s : State) : State :=
  if s.resetActive = true then s
  else
    match s.port.current with
    | some pr => (s.elapse 1).endPeriod pr
    | none => { s.elapse 1 with port := (s.elapse 1).port.tryStart }

/-- The step of an empty queue: one MCLK period (log 2), behind a waiting install that can be made (R71; log 10). -/
def State.tick (s : State) : State := s.settle.period

end Sys2Proof.Machine
end

