-- ==== Sys2Proof/Machine/ModeCommands.lean ====
section
/-! DEFINITION. Commands on the part mode: ENGAGE, SOFT_RESET. -/

namespace Sys2Proof.Machine

/-- ENGAGE (R158, R159): in BOOT with originator 0 ACTIVE turns are withheld, and the switch follows when nothing
resolved under the boot rules is left. -/
def State.runEngage (s : State) : State :=
  if s.mode = .boot ∧ (s.context 0).state = .active then
    ({ s with sequence := .engaging }.execute .engage).checkEngaged
  else s.finish .wrongState []

/-- SOFT_RESET (R161, R162): the blocks close in the one step of acceptance; the memory release is the acceptance
itself when no operation is in progress (R137). -/
def State.runSoftReset (s : State) : State :=
  let s' := { s with sequence := .resetMemory, fetch := s.fetch.withdraw }.execute .softReset
  if s.port.current = none then s'.memoryRelease else s'

/-- ENGAGE, code 0x3A. -/
def execEngage (args : List Byte) (s : State) : Host.Outcome State Fault Refusal :=
  .next (s.settle.frameEnd 0x3A 0 args State.runEngage)

/-- SOFT_RESET, code 0x3F. -/
def execSoftReset (args : List Byte) (s : State) : Host.Outcome State Fault Refusal :=
  .next (s.settle.frameEnd 0x3F 0 args State.runSoftReset)

end Sys2Proof.Machine
end

