-- ==== Sys2Proof/Machine/ResetInput.lean ====
section
/-! DEFINITION. The reset input: RESET_ASSERTED, RESET_RELEASED. -/

namespace Sys2Proof.Machine

/-- The assertion cuts the strobe period of a write beat: the target decides whether it took the bytes (R135), a free
value (log 5). -/
def State.cutStrobe (s : State) : State :=
  match s.port.current, s.port.queue with
  | some pr, op :: _ =>
    if pr.phase = .strobe ∧ op.isWrite = true then
      { s with
        mem := if Config.cutStrobeTaken s.freeCount = true then op.writeBeat pr.beat s.mem else s.mem
        freeCount := s.freeCount + 1 }
    else s
  | _, _ => s

/-- The link at the assertion: a command frame in progress is discarded and ignored to its end (R174). -/
def Engine.linkAtReset (e : Engine) : Link :=
  match e.phase, e.link with
  | .receiving c, _ => .ignored c
  | _, .ignored c => .ignored c
  | _, _ => .quiet

/-- Every block at its pin-reset values, while the input is active (R166, TABLE 45). The memory devices, the request on
the request channel and the queue of commands are outside the part (log 15). -/
def State.pinReset (s : State) : State :=
  { State.reset with
    resetActive := true
    waiting := s.waiting
    mem := s.mem
    engine := { Engine.reset with link := s.engine.linkAtReset }
    freeCount := s.freeCount
    pending := s.pending }

/-- RESET_ASSERTED (R166). -/
def execResetAsserted (s : State) : Host.Outcome State Fault Refusal := .next s.cutStrobe.pinReset

/-- RESET_RELEASED (R59, R166): admission and memory queue entry open. -/
def execResetReleased (s : State) : Host.Outcome State Fault Refusal := .next { s with resetActive := false }

end Sys2Proof.Machine
end

