-- ==== Sys2Proof/Machine/Resolution.lean ====
section
/-! DEFINITION. The check unit's turn: RESOLUTION_TURN. -/

namespace Sys2Proof.Machine

/-- The oldest QUEUED slot of an originator (R46). -/
def State.oldestQueued (s : State) (o : Originator) : Option SlotIx :=
  (s.order o).find? fun i => (s.slot i).isQueued

/-- Slot `i` belongs to the drain set of a SUSPEND executing for `o` (R26). -/
def State.inSuspendDrain (s : State) (o : Originator) (i : SlotIx) : Bool :=
  match s.engine.phase with
  | .executing (.suspend o' ds) => decide (o' = o) && ds.contains i
  | _ => false

/-- An originator holds its requests: SUSPENDED, and its oldest QUEUED slot `i` is in no such drain set (R47). -/
def State.holds (s : State) (o : Originator) (i : SlotIx) : Bool :=
  decide ((s.context o).state = .suspended) && !s.inSuspendDrain o i

/-- An originator is eligible for a turn (R47). -/
def State.eligible (s : State) (o : Originator) : Bool :=
  match s.oldestQueued o with
  | some i => s.turnsGiven && !(s.order o).any (fun j => (s.slot j).inResolution) && !s.holds o i
  | none => false

/-- A turn in BOOT (R155, R156). -/
def State.turnBoot (s : State) (i : SlotIx) (a : Access) : State :=
  if a.org ≠ 0 then s.refuse i a .originatorOff none none none
  else if a.inBootRange = true then s.setStage i (.resolved a.bootTranslation)
  else s.refuse i a .bootRange none none none

/-- Step 3 at a turn (R49, R50, R68): a hit moves the entry to the front and decides; a miss goes to the fetch unit. -/
def State.turnLookup (s : State) (i : SlotIx) (a : Access) : State :=
  match s.cache.find a.key with
  | some e =>
    match s.cache.entry e with
    | .valid _ _ d _ _ => { s with cache := s.cache.touch e }.resolveAgainst i a e d
    | _ => { s with cache := s.cache.touch e }.refuse i a .notPresent none none none
  | none => { s.setStage i .waitFetch with fetch := s.fetch.placeMiss a.key (.request i) }

/-- A turn in RUN: steps 1 and 2, then the lookup (R18, R19, R49). -/
def State.turnRun (s : State) (i : SlotIx) (a : Access) : State :=
  match (s.context a.org).state with
  | .off => s.refuse i a .originatorOff none none none
  | .quarantined => s.refuse i a .quarantined none none none
  | _ =>
    if (s.context a.org).windowCount.val ≤ (windowOf a.addr).val then s.refuse i a .noWindow none none none
    else s.turnLookup i a

/-- The turn of slot `i` of originator `o`: the pointer moves behind `o` (R48), and the mode decides the rules (R154). -/
def State.turn (s : State) (o : Originator) (i : SlotIx) : State :=
  match s.slot i with
  | .free => s
  | .held a _ _ =>
    match s.mode with
    | .boot => { s with intake := { s.intake with turnPtr := o + 1 } }.turnBoot i a
    | .run => { s with intake := { s.intake with turnPtr := o + 1 } }.turnRun i a

/-- The turn arbiter gives a turn when an originator is eligible (R48). -/
def State.giveTurn (s : State) : State :=
  match roundRobin s.intake.turnPtr s.eligible with
  | some o =>
    match s.oldestQueued o with
    | some i => s.turn o i
    | none => s
  | none => s

/-- RESOLUTION_TURN (R49). -/
def execResolutionTurn (s : State) : Host.Outcome State Fault Refusal := .next s.settle.giveTurn

end Sys2Proof.Machine
end

