-- ==== Sys2Proof/Machine/Words.lean ====
section
/-! DEFINITION. Words: READ_WORD, WRITE_WORD, WRITE_ATTENTION_MASK, WRITE_TIMING_RECORD. -/

namespace Sys2Proof.Machine

/-- The target whose timing record is word 3, 4, 5 or 6 (TABLE 52). -/
def timingWordTarget (n : Nat) : Option Target :=
  if n = 3 then some 0 else if n = 4 then some 1 else if n = 5 then some 2 else if n = 6 then some 3 else none

/-- The identity word (R176). -/
def identityWord : List Byte := [0x16, 0x04, 0x01, 0]

/-- The log status word (R149, TABLE 52). -/
def FaultLog.word (l : FaultLog) : List Byte := [byte l.records.length, l.lost, 0, 0]

/-- The four bytes of a word as it stands (R176, TABLE 52); none for a number above 7. -/
def State.word (s : State) (n : Nat) : Option (List Byte) :=
  if n = 0 then some identityWord
  else if n = 1 then some [s.mode.code, 0, 0, 0]
  else if n = 2 then some (maskWord s.log.mask)
  else if n = 7 then some s.log.word
  else (timingWordTarget n).map fun t => (peek s.port.timing t).word

/-- READ_WORD (R175). -/
def State.runReadWord (s : State) (args : List Byte) : State :=
  match s.word (arg args 0) with
  | some w => s.finish .ok w
  | none => s.finish .badArgument []

/-- A write of the attention mask (R150, R175). -/
def State.runWriteMask (s : State) (value : List Byte) : State :=
  match maskOf value with
  | some m => ({ s with log := { s.log with mask := m } }).finish .ok []
  | none => s.finish .badArgument []

/-- A write of a timing record (R122, R175): it governs operations that start afterwards (R123). -/
def State.runWriteTiming (s : State) (t : Target) (value : List Byte) : State :=
  match timingOf value with
  | some r => ({ s with port := { s.port with timing := poke s.port.timing t r } }).finish .ok []
  | none => s.finish .badArgument []

/-- WRITE_WORD of any word (R175): a read-only word and a number above 7 end it with BAD_ARGUMENT. -/
def State.runWriteWord (s : State) (args : List Byte) : State :=
  if arg args 0 = 2 then s.runWriteMask (args.drop 1)
  else
    match timingWordTarget (arg args 0) with
    | some t => s.runWriteTiming t (args.drop 1)
    | none => s.finish .badArgument []

/-- READ_WORD, code 0x02 (R175). -/
def execReadWord (args : List Byte) (s : State) : Host.Outcome State Fault Refusal :=
  .next (s.settle.frameEnd 0x02 1 args fun s => s.runReadWord args)

/-- WRITE_WORD, code 0x03 (R175). -/
def execWriteWord (args : List Byte) (s : State) : Host.Outcome State Fault Refusal :=
  .next (s.settle.frameEnd 0x03 5 args fun s => s.runWriteWord args)

/-- WRITE_WORD of word 2 (R150). -/
def execWriteAttentionMask (value : List Byte) (s : State) : Host.Outcome State Fault Refusal :=
  .next (s.settle.frameEnd 0x03 5 (2 :: value) fun s => s.runWriteMask value)

/-- WRITE_WORD of the word of target `t` (R122). -/
def execWriteTimingRecord (t : Target) (value : List Byte) (s : State) : Host.Outcome State Fault Refusal :=
  .next (s.settle.frameEnd 0x03 5 (byte (3 + t.val) :: value) fun s => s.runWriteTiming t value)

end Sys2Proof.Machine
end

