-- ==== Sys2Proof/Machine/Dispatch.lean ====
section
/-! DEFINITION. The meaning of each command, one arm a constructor. -/

namespace Sys2Proof.Machine

def exec (i : Instr) (s : State) : Host.Outcome State Fault Refusal :=
  match i with
  | .admission r => Sys2Proof.Machine.execAdmission r s
  | .responsePresented => Sys2Proof.Machine.execResponsePresented s
  | .responseDeparture => Sys2Proof.Machine.execResponseDeparture s
  | .resolutionTurn => Sys2Proof.Machine.execResolutionTurn s
  | .forwardReadEntry => Sys2Proof.Machine.execForwardReadEntry s
  | .forwardWriteEntry => Sys2Proof.Machine.execForwardWriteEntry s
  | .tableReadEntry => Sys2Proof.Machine.execTableReadEntry s
  | .statusWriteEntry => Sys2Proof.Machine.execStatusWriteEntry s
  | .recoveryExpiry => Sys2Proof.Machine.execRecoveryExpiry s
  | .forwardReadComplete x => Sys2Proof.Machine.execForwardReadComplete x s
  | .writeOperationComplete x => Sys2Proof.Machine.execWriteOperationComplete x s
  | .tableReadComplete x => Sys2Proof.Machine.execTableReadComplete x s
  | .waitingInstallMade => Sys2Proof.Machine.execWaitingInstallMade s
  | .extendLimitExpiry => Sys2Proof.Machine.execExtendLimitExpiry s
  | .resetAsserted => Sys2Proof.Machine.execResetAsserted s
  | .resetReleased => Sys2Proof.Machine.execResetReleased s
  | .status => Sys2Proof.Machine.execStatus s
  | .unknownCommand code => Sys2Proof.Machine.execUnknownCommand code s
  | .readWord args => Sys2Proof.Machine.execReadWord args s
  | .writeWord args => Sys2Proof.Machine.execWriteWord args s
  | .writeAttentionMask value => Sys2Proof.Machine.execWriteAttentionMask value s
  | .writeTimingRecord t value => Sys2Proof.Machine.execWriteTimingRecord t value s
  | .getContext args => Sys2Proof.Machine.execGetContext args s
  | .setContext args => Sys2Proof.Machine.execSetContext args s
  | .originatorOn args => Sys2Proof.Machine.execOriginatorOn args s
  | .originatorOff args => Sys2Proof.Machine.execOriginatorOff args s
  | .suspend args => Sys2Proof.Machine.execSuspend args s
  | .resume args => Sys2Proof.Machine.execResume args s
  | .releaseQuarantine args => Sys2Proof.Machine.execReleaseQuarantine args s
  | .invalidate args => Sys2Proof.Machine.execInvalidate args s
  | .invalidateOriginator args => Sys2Proof.Machine.execInvalidateOriginator args s
  | .invalidateStamp args => Sys2Proof.Machine.execInvalidateStamp args s
  | .invalidateAll args => Sys2Proof.Machine.execInvalidateAll args s
  | .pin args => Sys2Proof.Machine.execPin args s
  | .unpin args => Sys2Proof.Machine.execUnpin args s
  | .cacheRead args => Sys2Proof.Machine.execCacheRead args s
  | .probe args => Sys2Proof.Machine.execProbe args s
  | .logHead args => Sys2Proof.Machine.execLogHead args s
  | .logPop args => Sys2Proof.Machine.execLogPop args s
  | .logClear args => Sys2Proof.Machine.execLogClear args s
  | .engage args => Sys2Proof.Machine.execEngage args s
  | .softReset args => Sys2Proof.Machine.execSoftReset args s
  | .codeByteWhole code => Sys2Proof.Machine.execCodeByteWhole code s
  | .beatComplete x => Sys2Proof.Machine.execBeatComplete x s

end Sys2Proof.Machine
end

