-- ==== Sys2Proof/Machine/Pins.lean ====
section
/-! DEFINITION. The output pins, as functions of the state. -/

namespace Sys2Proof.Machine

/-- FACK: the presented request is admitted (R41, R42). -/
def State.fack (s : State) (r : FrontRequest) : Bool := (s.admissionSlot r.org).isSome

/-- The fields of the response channel (TABLE 17). -/
structure ResponsePins where
  frorg : Originator
  frout : Bool
  frd : Data
  frcause : BitVec 5
  deriving DecidableEq, Repr

/-- The response fields of a slot that is ANSWER_READY (TABLE 17). -/
def Slot.response : Slot → Option ResponsePins
  | .held a _ (.answerReady _ (.done d)) => some { frorg := a.org, frout := false, frd := d.getD 0, frcause := 0 }
  | .held a _ (.answerReady _ (.refused c)) =>
    some { frorg := a.org, frout := true, frd := 0, frcause := BitVec.ofNat 5 c.code }
  | _ => none

/-- FRESP and its fields: none while no response is presented (R56, R57), or the reset input is active (R59). -/
def State.response (s : State) : Option ResponsePins :=
  if s.resetActive = true then none else s.intake.presented.bind fun i => (s.slot i).response

/-- The target whose select is asserted: that of the beat under way (R134). -/
def State.selected (s : State) : Option Target :=
  match s.port.current, s.port.queue with
  | some _, op :: _ => some op.place.target
  | _, _ => none

/-- MSEL[3:0], active low (R134). -/
def State.msel (s : State) : BitVec 4 :=
  match s.selected with
  | some t => ~~~(1#4 <<< t.val)
  | none => 15

/-- The strobe period of a beat that writes (`w` true) or reads (`w` false) is running. -/
def State.strobing (s : State) (w : Bool) : Bool :=
  match s.port.current, s.port.queue with
  | some pr, op :: _ => decide (pr.phase = .strobe) && decide (op.isWrite = w)
  | _, _ => false

/-- MRD, active low (R126, R134). -/
def State.mrd (s : State) : Bool := !s.strobing false

/-- MWR, active low (R126, R134). -/
def State.mwr (s : State) : Bool := !s.strobing true

/-- What the part drives on lanes 0 and 1 of MD: the enabled lanes of a write beat, and nothing else (R125, R134). -/
def State.md (s : State) : Option Byte × Option Byte :=
  match s.port.current, s.port.queue with
  | some pr, op :: _ =>
    (if op.isWrite = true ∧ pr.beat.lane0 = true then some (op.byteFor pr.beat.ma) else none,
     if op.isWrite = true ∧ pr.beat.lane1 = true then some (op.byteFor (pr.beat.ma + 1)) else none)
  | _, _ => (none, none)

/-- What the part drives on MSDO during byte `k` of a frame, the code byte being byte 0, by the level of the input MSSEL
(log 27): nothing while MSSEL is released or the reset input is active (R167, R174); while it is asserted 0x00, but for
the reply of a STATUS frame (TABLE 48). -/
def State.msdo (s : State) (msselActive : Bool) (k : Nat) : Option Byte :=
  if s.resetActive = true ∨ msselActive = false then none
  else
    match s.engine.link with
    | .status reply => some (if k = 0 then 0 else reply.toList.getD (k - 1) 0)
    | _ => some 0

/-- The sequencer is IDLE: no operation in progress and none waiting (TABLE 34). -/
def State.sequencerIdle (s : State) : Bool := s.port.current.isNone && s.port.queue.isEmpty

/-- The sequencer is in RECOVERY: an operation waits at the head (TABLE 34). -/
def State.sequencerRecovering (s : State) : Bool := s.port.current.isNone && !s.port.queue.isEmpty

end Sys2Proof.Machine
end

