-- ==== Sys2Proof/Safety.lean ====
section
/-! DEFINITION. Safe steps, and what holds of every state that the part can be in: the conditions that the claims about
every step name. -/

namespace Sys2Proof.Machine

/-- A step that answers a next state. -/
def Safe (s : State) : Prop := ∃ t, step s = .next t

/-! ## Memory and memory port -/

/-- The external memory is in its canonical form. -/
def State.MemoryOk (s : State) : Prop := Memory.Wf s.mem

/-- The period of a beat lies within what its timing record allows (R126, R127). -/
def Progress.Ok (pr : Progress) : Prop :=
  pr.timing.extendLimit ≠ 0 ∧
  match pr.phase with
  | .address => True
  | .wait left => 1 ≤ left ∧ left ≤ pr.timing.accessWait.toNat
  | .extend n => 1 ≤ n ∧ n ≤ pr.timing.extendLimit.toNat
  | .strobe => True

/-- At most 8 operations, of them at most 4 forwarded ones of each originator (R43, R119), an operation in progress stands
at the head (R119), at most 8 discards (R137), and every timing record holds an extend limit of 1 to 255 (TABLE 32). -/
def Port.Ok (p : Port) : Prop :=
  p.queue.length ≤ queueCapacity ∧ (∀ o, p.forwardedOf o ≤ forwardCapacity) ∧ (p.current ≠ none → p.queue ≠ []) ∧
  p.discards ≤ queueCapacity ∧
  (∀ t, (peek p.timing t).extendLimit ≠ 0) ∧ ∀ pr, p.current = some pr → pr.Ok

/-! ## Fault log -/

/-- At most 16 records, and record `k` is numbered so that the numbers run on without a gap up to the next sequence
number (R143). -/
def FaultLog.Ok (l : FaultLog) : Prop :=
  l.records.length ≤ logCapacity ∧
  ∀ (k : Nat) (h : k < l.records.length),
    (l.records[k]'h).seq + BitVec.ofNat 16 (l.records.length - k) = l.nextSeq

/-! ## Intake -/

/-- The order lists hold the slots that are not FREE, each once and under its own originator (R46); no originator holds
more than 4 slots (R42) or has two slots in resolution (R45); and the response presented is a prepared one that stands
at the head of its list (R56). -/
def State.IntakeOk (s : State) : Prop :=
  (∀ o, (s.order o).Nodup ∧ ∀ i, i ∈ s.order o ↔ (s.slot i).heldBy o = true) ∧
  (∀ o, (s.order o).length ≤ 4) ∧
  (∀ o i j, (s.slot i).heldBy o = true → (s.slot j).heldBy o = true → (s.slot i).inResolution = true →
    (s.slot j).inResolution = true → i = j) ∧
  ∀ i, s.intake.presented = some i → (s.slot i).isAnswered = true ∧ ∃ o, (s.order o).head? = some i

/-! ## Descriptor cache and fetch unit -/

/-- The recency list holds the entries that are not FREE, each once (R67), and the asking order those with pending
marks, each once (R110). -/
def Cache.Ok (c : Cache) : Prop :=
  c.recency.Nodup ∧ (∀ i, i ∈ c.recency ↔ (c.entry i).isFree = false) ∧
  c.asking.Nodup ∧ ∀ i, i ∈ c.asking ↔ (c.entry i).hasMarks = true

/-- No two entries hold one key (R66), no two fetch slots hold one key, no fetch is for a key whose entry is VALID or
ABSENT (R87), and while an asker waits no fetch slot is IDLE and its key is neither fetched nor held (R87 to R89). -/
def State.KeysOk (s : State) : Prop :=
  (∀ i j k, (s.cache.entry i).key? = some k → (s.cache.entry j).key? = some k → i = j) ∧
  (∀ f g k, (s.fetch.slot f).key? = some k → (s.fetch.slot g).key? = some k → f = g) ∧
  (∀ f k, (s.fetch.slot f).key? = some k → ∀ i, (s.cache.entry i).answers k = false) ∧
  (∀ a ∈ s.fetch.waitList, (∀ f, (s.fetch.slot f).key? ≠ some a.key ∧ (s.fetch.slot f).isIdle = false) ∧
    ∀ i, (s.cache.entry i).answers a.key = false)

/-- The key of a held install. -/
def FetchSlot.installKey? : FetchSlot → Option Key
  | .installing k _ _ _ _ => some k
  | _ => none

/-- A fetch slot is READING, phase ASKING (TABLE 24). -/
def FetchSlot.isAsking : FetchSlot → Bool
  | .reading _ _ _ _ .asking => true
  | _ => false

/-- No entry can receive the oldest waiting install (R69, R71). -/
def State.Settled (s : State) : Prop :=
  ∀ f ∈ s.fetch.installs.head?, ∀ k ∈ (s.fetch.slot f).installKey?, ∀ e,
    s.cache.entry e ≠ .stale k ∧ s.cache.entry e ≠ .free ∧ (s.cache.entry e).evictable = false

/-- The waiting installs are those of the slots in INSTALLING, each once (R71). -/
def FetchUnit.InstallsListed (u : FetchUnit) : Prop :=
  u.installs.Nodup ∧ ∀ f, f ∈ u.installs ↔ (u.slot f).installKey? ≠ none

/-- The askings for a table read are those of the slots in READING, phase ASKING, each once (R91, R120). -/
def FetchUnit.AsksListed (u : FetchUnit) : Prop :=
  u.asks.Nodup ∧ ∀ f, f ∈ u.asks ↔ (u.slot f).isAsking = true

/-- Outside a soft reset the askings and the waiting installs are those of the fetch slots; in RESET_ANSWER the fetch
unit is empty (R103). -/
def State.FetchListsOk (s : State) : Prop :=
  (s.sequence.inReset = false → s.fetch.AsksListed ∧ s.fetch.InstallsListed) ∧
  (s.sequence = .resetAnswer → s.fetch = .reset)

/-- While the mode control carries out a sequence, the engine executes the command that began it (R154, R158, R161). -/
def State.SequenceOk (s : State) : Prop :=
  (s.sequence = .engaging → s.engine.phase = .executing .engage) ∧
  (s.sequence.inReset = true → s.engine.phase = .executing .softReset)

/-- The keys of the fetches and list entries on which the command waits. -/
def FetchUnit.commandKeys (u : FetchUnit) : List Key :=
  (allFetchSlots.flatMap fun i =>
    match u.slot i with
    | .idle => []
    | .reading k ws _ _ _ => (ws.filter fun w => decide (w = .command)).map fun _ => k
    | .installing k ws _ _ _ => (ws.filter fun w => decide (w = .command)).map fun _ => k) ++
  ((u.waitList.filter fun (a : Asker) => decide (a.waiter = .command)).map Asker.key)

/-- The key that the command being executed waits for, if it is one that waits on a fetch. -/
def EnginePhase.fetchKey? : EnginePhase → Option Key
  | .executing (.pin k) => some k
  | .executing (.probe a) => some a.key
  | _ => none

/-- At most 12 entries are pinned (R66), and a PIN that waits has its place kept: a pinned entry of its key, or room for
one more (R78, R79). The command waits on at most one fetch, that of its own key (R85). -/
def State.PinsOk (s : State) : Prop :=
  s.cache.pinCount ≤ 12 ∧
  (∀ k, s.engine.phase = .executing (.pin k) → s.cache.pinnedOf k ≠ none ∨ s.cache.pinCount < 12) ∧
  (s.fetch.commandKeys = [] ∨ ∃ k, s.fetch.commandKeys = [k] ∧ s.engine.phase.fetchKey? = some k)

end Sys2Proof.Machine
end

