-- ==== Sys2Proof/Certificates/Slice0/Obligations.lean ====
section
/-! DEFINITION. The claims about the part that are to be proved, and the words they are stated in. -/

namespace Sys2Proof.Claims

open Sys2Proof.Machine

/-! ## Words of the claims -/

/-- The engine after a command frame has been judged and its command has ended (R168, R170, R172). -/
def ended (s : State) (r : ResultCode) (layout : List Byte) : Engine :=
  { phase := .complete r (Vector.ofFn fun i => layout.getD i.val 0)
    rejectedBusy := s.engine.rejectedBusy
    link := .quiet }

/-- The engine after the acceptance of a long command that goes on (R170). -/
def held (s : State) (c : LongCommand) : Engine :=
  { phase := .executing c, rejectedBusy := s.engine.rejectedBusy, link := .quiet }

/-- A frame with this code is judged at its end: the part is not held in reset, and either the frame is being received,
or the engine is IDLE or COMPLETE and no frame of this code is being ignored (R168, R170, R171). No waiting install can
be made before it (R71; the other states are those of the last clause of `InstallWaitsAndIsMade`). -/
def Receives (s : State) (code : Byte) : Prop :=
  s.resetActive = false ∧ s.Settled ∧
  (s.engine.phase = .receiving code ∨
    ((s.engine.phase = .idle ∨ ∃ r b, s.engine.phase = .complete r b) ∧ s.engine.link ≠ .ignored code))

/-- The code of a command row, the number of argument bytes its command needs (TABLE 47), and the argument bytes of the
frame. -/
def frameOf : Instr → Option (Byte × Nat × List Byte)
  | .readWord a => some (0x02, 1, a)
  | .writeWord a => some (0x03, 5, a)
  | .writeAttentionMask v => some (0x03, 5, 2 :: v)
  | .writeTimingRecord t v => some (0x03, 5, BitVec.ofNat 8 (3 + t.val) :: v)
  | .getContext a => some (0x08, 1, a)
  | .setContext a => some (0x09, 6, a)
  | .originatorOn a => some (0x10, 1, a)
  | .originatorOff a => some (0x11, 1, a)
  | .suspend a => some (0x12, 1, a)
  | .resume a => some (0x13, 1, a)
  | .releaseQuarantine a => some (0x14, 1, a)
  | .invalidate a => some (0x20, 2, a)
  | .invalidateOriginator a => some (0x21, 1, a)
  | .invalidateStamp a => some (0x22, 1, a)
  | .invalidateAll a => some (0x23, 0, a)
  | .pin a => some (0x24, 2, a)
  | .unpin a => some (0x25, 2, a)
  | .cacheRead a => some (0x26, 1, a)
  | .probe a => some (0x28, 6, a)
  | .logHead a => some (0x30, 0, a)
  | .logPop a => some (0x31, 0, a)
  | .logClear a => some (0x32, 0, a)
  | .engage a => some (0x3A, 0, a)
  | .softReset a => some (0x3F, 0, a)
  | _ => none

/-- The state with one context replaced. -/
def withContext (s : State) (o : Originator) (c : Context) : State := { s with contexts := poke s.contexts o c }

/-- Nothing of the board, the mode control, the request channel, the free counter or the queue has changed. -/
def BoardKept (s u : State) : Prop :=
  u.resetActive = s.resetActive ∧ u.mode = s.mode ∧ u.sequence = s.sequence ∧ u.waiting = s.waiting ∧
  u.freeCount = s.freeCount ∧ u.pending = s.pending

/-- The window number and the window offset of an address, as divisions (R1). -/
def windowNumber (a : Addr) : Nat := a.toNat / 262144
def windowOffset (a : Addr) : Nat := a.toNat % 262144

/-- What an invalidation covers: entries, keys of fetches in READING, and waiting installs. -/
structure Cover where
  entry : Entry → Bool
  fetch : Key → Bool
  install : Key → Held → Bool

/-- Coverage by keys (R74, R75, R77, R104). -/
def Cover.byKeys (p : Key → Bool) : Cover :=
  { entry := fun e => match e.key? with | some k => p k | none => false
    fetch := p
    install := fun k _ => p k }

/-- Coverage by stamp (R72, R76). -/
def Cover.byStamp (b : Byte) : Cover :=
  { entry := fun e => match e with | .valid _ _ d _ _ => decide (d.b5 = b) | _ => false
    fetch := fun _ => true
    install := fun _ h => match h with | .valid d _ => decide (d.b5 = b) | .absent => false }

/-- What becomes of an entry that an invalidation reaches (R73). -/
def reached : Entry → Entry
  | .free => .free
  | .valid k true _ _ _ => .stale k
  | .valid _ false _ _ _ => .free
  | .absent k true => .stale k
  | .absent _ false => .free
  | .stale k => .stale k

/-- What becomes of a fetch slot when its install, if it waits and is covered, has reads left: a covered fetch in
READING is overtaken (R92), and a covered install is read again (R72, R97). -/
def overtakenSlot (c : Cover) : FetchSlot → FetchSlot
  | .idle => .idle
  | .reading k ws ov n ph => .reading k ws (ov || c.fetch k) n ph
  | .installing k ws n p h => if c.install k h = true then .reading k ws false (n + 1) .asking else .installing k ws n p h

/-- A fetch slot whose covered install has no read left (R97). -/
def exhausted (c : Cover) : FetchSlot → Bool
  | .installing k _ n _ h => c.install k h && decide (5 ≤ n)
  | _ => false

/-- The fetch slot that a key's fetch frees: IDLE, or given to the head of the wait list with every entry of the same
key (R86, R89). -/
def freedSlot (u : FetchUnit) : FetchSlot :=
  match u.waitList with
  | [] => .idle
  | a :: rest =>
    .reading a.key (a.waiter :: (rest.filter fun (b : Asker) => decide (b.key = a.key)).map Asker.waiter) false 1 .asking

/-- The wait list after that. -/
def restOfList (u : FetchUnit) : List Asker :=
  match u.waitList with
  | [] => []
  | a :: rest => rest.filter fun (b : Asker) => decide (b.key ≠ a.key)

/-- The askings for a table read after that: a slot given to the head of the wait list asks for its first read. -/
def asksAfter (u : FetchUnit) (f : FetchIx) : List FetchIx := if u.waitList = [] then u.asks else u.asks ++ [f]

/-- The fetch unit with fetch slot `f` freed. -/
def freed (u : FetchUnit) (f : FetchIx) : FetchUnit :=
  { u with slots := poke u.slots f (freedSlot u), asks := asksAfter u f, waitList := restOfList u }

/-- Every waiter of a fetch woken in turn, the first that attached first (R99, R100). -/
def wokenBy (v : State) (k : Key) (o : FetchOutcome) (ws : List Waiter) : State := ws.foldl (fun v w => v.wake k o w) v

/-- The waiting install of slot `f` voided (R72, R97): it leaves the waiting order; with fewer than five reads made the
slot asks for another, its count one higher; with five its waiters fail TABLE_UNSTABLE and the slot is freed. -/
def voided (v : State) (f : FetchIx) : State :=
  match v.fetch.slot f with
  | .installing k ws n _ _ =>
    if n < 5 then
      { v with fetch := { v.fetch with
          slots := poke v.fetch.slots f (.reading k ws false (n + 1) .asking)
          asks := v.fetch.asks ++ [f]
          installs := v.fetch.installs.erase f } }
    else { wokenBy v k .unstable ws with fetch := freed { v.fetch with installs := v.fetch.installs.erase f } f }
  | _ => v

/-- The waiting install of slot `f` is covered (R72). -/
def coveredInstall (s : State) (c : Cover) (f : FetchIx) : Bool :=
  match s.fetch.slot f with
  | .installing k _ _ _ h => c.install k h
  | _ => false

/-- The state once the covered fetches in READING are overtaken and the covered waiting installs voided, the older first
(R72, R92; R72 does not give that order: log 18, DEDUCED). -/
def fetchesVoided (s : State) (c : Cover) : State :=
  (s.fetch.installs.filter (coveredInstall s c)).foldl voided
    { s with fetch := { s.fetch with
        slots := Vector.ofFn fun f =>
          match s.fetch.slot f with
          | .reading k ws ov n ph => .reading k ws (ov || c.fetch k) n ph
          | x => x } }

/-- The effect of an invalidation on cache, fetch unit, intake and log (R72, R73, R92, R97): the entries, the recency
list and the asking order; the covered fetches and waiting installs; and the waiters of a covered install whose five
reads are used up, which fail, the install that waits longest first (log 18, DEDUCED). When there is no such install,
the fetch slots one by one, their askings and installs, and nothing of intake and log. -/
def Invalidated (s u : State) (c : Cover) : Prop :=
  (∀ e, u.cache.entry e = if c.entry (s.cache.entry e) = true then reached (s.cache.entry e) else s.cache.entry e) ∧
  u.cache.recency = s.cache.recency.filter (fun e => !(u.cache.entry e).isFree) ∧
  u.cache.asking = s.cache.asking.filter (fun e => (u.cache.entry e).hasMarks) ∧
  u.mem = s.mem ∧ u.intake.orders = s.intake.orders ∧ u.intake.presented = s.intake.presented ∧
  u.intake.turnPtr = s.intake.turnPtr ∧ u.intake.responsePtr = s.intake.responsePtr ∧
  u.fetch = (fetchesVoided s c).fetch ∧ u.intake = (fetchesVoided s c).intake ∧ u.log = (fetchesVoided s c).log ∧
  (s.fetch.InstallsListed → (∀ f, exhausted c (s.fetch.slot f) = false) →
    (∀ f, u.fetch.slot f = overtakenSlot c (s.fetch.slot f)) ∧
    u.fetch.asks = s.fetch.asks ++ s.fetch.installs.filter (coveredInstall s c) ∧
    u.fetch.installs = s.fetch.installs.filter (fun f => !coveredInstall s c f) ∧
    u.fetch.waitList = s.fetch.waitList ∧ u.intake = s.intake ∧ u.log = s.log)

/-- The number of VALID and ABSENT entries covered: those that an invalidation turns FREE or STALE (R73). -/
def voidedCount (s : State) (c : Cover) : Nat :=
  ((List.finRange 16).filter fun e => (s.cache.entry e).live && c.entry (s.cache.entry e)).length

/-- The refusal record of a request refused at resolution (R140, TABLE 40). -/
def recordOf (cause : Cause) (a : Access) (stamp : Option Byte) (place : Option Place) (detail : Option Byte) :
    FaultInfo :=
  { cause := cause, org := some a.org, access := some (a.kind, a.size, a.addr)
    window := some (Fin.ofNat 64 (windowNumber a.addr)), stamp := stamp, place := place, detail := detail }

/-- A refusal of this cause counts (R35). -/
def Counts (s : State) (o : Originator) (cause : Cause) : Prop :=
  s.mode = .run ∧ cause ∈ [Cause.noWindow, .notPresent, .rights, .limit, .misaligned] ∧ (s.context o).limit ≠ 0 ∧
  ((s.context o).state = .active ∨ (s.context o).state = .suspended)

/-- The refusal count after a refusal that counts (R35). -/
def raisedCount (c : Context) : Byte := if c.count = c.limit then c.count else c.count + 1

/-- A refusal of the request in slot `i` at resolution, from `s` to `u` (R35, R37, R52): the slot is ANSWER_READY with
the cause; the log takes the record, and QUARANTINE_ENTERED behind it when the count comes to the limit; the context
changes only when the refusal counts. -/
def RefusedWith (s u : State) (i : SlotIx) (a : Access) (d : Option Data) (cause : Cause) (stamp : Option Byte) : Prop :=
  u.slot i = .held a d (.answerReady none (.refused cause)) ∧
  (∀ j, j ≠ i → u.slot j = s.slot j) ∧
  (¬ Counts s a.org cause → u.contexts = s.contexts ∧ u.log = s.log.offer (recordOf cause a stamp none none)) ∧
  (Counts s a.org cause → raisedCount (s.context a.org) ≠ (s.context a.org).limit →
    u.contexts = poke s.contexts a.org { s.context a.org with count := raisedCount (s.context a.org) } ∧
    u.log = s.log.offer (recordOf cause a stamp none none)) ∧
  (Counts s a.org cause → raisedCount (s.context a.org) = (s.context a.org).limit →
    u.contexts = poke s.contexts a.org
      { s.context a.org with count := (s.context a.org).limit, state := .quarantined } ∧
    u.log = (s.log.offer (recordOf cause a stamp none none)).offer
      { cause := .quarantineEntered, org := some a.org, access := none, window := none, stamp := none, place := none,
        detail := some (s.context a.org).limit })

/-- Memory port, memory and engine as they were, and the lists and pointers of the intake but the turn pointer. -/
def TurnFrame (s u : State) : Prop :=
  BoardKept s u ∧ u.port = s.port ∧ u.mem = s.mem ∧ u.engine = s.engine ∧
  u.intake.orders = s.intake.orders ∧ u.intake.responsePtr = s.intake.responsePtr ∧
  u.intake.presented = s.intake.presented

/-- A turn goes to slot `i` of originator `o`: `o` is the first eligible originator from the turn pointer, and `i` its
oldest QUEUED slot, holding `a` and `d` (R47, R48); no waiting install can be made before it (R71). -/
def TurnOf (s : State) (o : Originator) (i : SlotIx) (a : Access) (d : Option Data) : Prop :=
  s.resetActive = false ∧ s.Settled ∧ s.sequence = .none ∧
  ([s.intake.turnPtr, s.intake.turnPtr + 1, s.intake.turnPtr + 2, s.intake.turnPtr + 3].find? fun o' =>
    s.eligible o') = some o ∧
  s.oldestQueued o = some i ∧ s.slot i = .held a d .queued

/-- The number of forwarded operations of an originator that stand in the memory queue, the one in progress among them. -/
def forwardsQueued (s : State) (o : Originator) : Nat :=
  (s.port.queue.filter fun op =>
    match op.body with
    | .forwardRead a _ => decide (a.org = o)
    | .forwardWrite a _ => decide (a.org = o)
    | _ => false).length

/-- Originator `o` offers slot `i`: its oldest RESOLVED slot (R53), while fewer than 4 forwarded operations of the
request's originator stand in the memory queue (R43, R119). That the bound acts at the offer is the model's choice
(log 29). -/
def Offers (s : State) (o : Originator) (i : SlotIx) : Prop :=
  (s.order o).find? (fun j => (s.slot j).isResolved) = some i ∧
  ∃ a d st, s.slot i = .held a d st ∧ forwardsQueued s a.org < 4

/-- The arbiter grants entry to `g` (R120); no waiting install can be made before it (R71). -/
def Granted (s : State) (g : Grant) : Prop := s.Settled ∧ s.grant = some g

/-- The beat under way of the head operation `op` comes to its extend limit in `n` periods from now (R127); no waiting
install can be made before it (R71). -/
def Abandons (s : State) (pr : Progress) (op : MemOp) (rest : List MemOp) (n : Nat) : Prop :=
  s.resetActive = false ∧ s.Settled ∧ s.port.current = some pr ∧ s.port.queue = op :: rest ∧
  pr.periodsToAbandon = some n

/-- The beat under way is the last of the head operation `op`, and it completes after `x` more extend periods, in `n`
periods from now (R126); no waiting install can be made before it (R71). -/
def LastBeat (s : State) (pr : Progress) (op : MemOp) (rest : List MemOp) (x n : Nat) : Prop :=
  s.resetActive = false ∧ s.Settled ∧ s.port.current = some pr ∧ s.port.queue = op :: rest ∧ pr.rest = [] ∧
  pr.periodsToEnd x = some n

/-- The recovery counts after `n` periods of an operation on target `t` that then ends (R128). -/
def recoveryAfter (p : Port) (t : Target) (timing : Timing) (n : Nat) : Vector (BitVec 2) 4 :=
  Vector.ofFn fun t' => if t' = t then timing.recovery else BitVec.ofNat 2 ((peek p.recovery t').toNat - n)

/-- The memory port when the head operation has ended after `n` periods and no soft reset is in progress: the operation
has left, its target recovers, and the next one starts if it can (R119, R128). -/
def PortAfter (s u : State) (pr : Progress) (op : MemOp) (rest : List MemOp) (n : Nat) : Prop :=
  u.port = Port.tryStart { s.port with
    queue := rest, current := none, recovery := recoveryAfter s.port op.place.target pr.timing n }

/-- The bytes that the beat under way of a read gathers, in address order (R125). -/
def beatBytes (s : State) (op : MemOp) (b : Beat) : List Byte :=
  b.addrs.map fun a => s.byteOf { target := op.place.target, addr := a }

/-- The bytes of memory after a write beat of `op`, when memory is in its canonical form: the enabled bytes hold the placed
bytes, and every other byte is as it was (R125, R126). -/
def BeatWritten (s u : State) (op : MemOp) (b : Beat) : Prop :=
  s.MemoryOk → ∀ p : Place, u.byteOf p =
    if p.target = op.place.target ∧ p.addr ∈ b.addrs then op.data.getD (p.addr - op.place.addr).toNat 0 else s.byteOf p

/-- The fetch unit after fetch slot `f` has been freed: the other slot as it was, and a slot given to the head of the
wait list asking for its first read (R89). -/
def SlotFreed (s u : State) (f : FetchIx) : Prop :=
  u.fetch.slot f = freedSlot s.fetch ∧ u.fetch.waitList = restOfList s.fetch ∧ u.fetch.asks = asksAfter s.fetch f ∧
  ∀ g, g ≠ f → u.fetch.slot g = s.fetch.slot g

/-- Entry `e` receives an install of `k` (R69): the STALE entry of the key; else, when there is none, the FREE entry with
the lowest index; else the entry nearest the back of the recency list that is unpinned, not STALE and without marks. -/
def Receiver (c : Cache) (k : Key) (e : EntryIx) : Prop :=
  (c.entry e = .stale k ∧ ∀ e' < e, c.entry e' ≠ .stale k) ∨
  ((∀ e', c.entry e' ≠ .stale k) ∧ c.entry e = .free ∧ ∀ e' < e, c.entry e' ≠ .free) ∨
  ((∀ e', c.entry e' ≠ .stale k) ∧ (∀ e', c.entry e' ≠ .free) ∧
    ∃ front back, c.recency = front ++ e :: back ∧ (c.entry e).evictable = true ∧
      ∀ e' ∈ back, (c.entry e').evictable = false)

/-- `u` agrees with `v` wherever a wake can reach: contexts, intake, cache, log and engine. -/
def Woken (v u : State) : Prop :=
  u.contexts = v.contexts ∧ u.intake = v.intake ∧ u.cache = v.cache ∧ u.log = v.log ∧ u.engine = v.engine

/-- A PIN is executing and the command is among the waiters (R70). -/
def PinAmong (s : State) (ws : List Waiter) : Prop := Waiter.command ∈ ws ∧ ∃ k, s.engine.phase = .executing (.pin k)

/-- The cache after an install of `k` into entry `e` (R70): the entry holds what was read, its pending marks empty, and
moves to the front of the recency list. -/
def installed (c : Cache) (e : EntryIx) (k : Key) (pinned : Bool) (h : Held) : Cache :=
  { c with
    entries := poke c.entries e
      (match h with
       | .valid d st => .valid k pinned d st { used := false, written := false }
       | .absent => .absent k pinned)
    recency := e :: c.recency.erase e }

/-- What a fetch that installed ends with. -/
def installOutcome (e : EntryIx) (fresh : Bool) : Held → FetchOutcome
  | .valid d _ => .valid e d fresh
  | .absent => .absent e fresh

/-- What the memory release makes of a slot: RESET for one that is not FREE and has no answer yet (R61). -/
def releasedSlot : Slot → Slot
  | .free => .free
  | .held a d (.answerReady t r) => .held a d (.answerReady t r)
  | .held a d (.resolved t) => .held a d (.answerReady (some t) (.refused .reset))
  | .held a d (.issued t) => .held a d (.answerReady (some t) (.refused .reset))
  | .held a d .queued => .held a d (.answerReady none (.refused .reset))
  | .held a d .resolving => .held a d (.answerReady none (.refused .reset))
  | .held a d .waitFetch => .held a d (.answerReady none (.refused .reset))

/-- The number of posted writes among the operations (R137). -/
def postedWrites (ops : List MemOp) : Nat :=
  (ops.filter fun op =>
    match op.body with
    | .forwardWrite _ _ => true
    | _ => false).length

/-- The fetch unit with nothing in it. -/
def emptyFetch : FetchUnit := { slots := Vector.replicate 2 .idle, asks := [], waitList := [], installs := [] }

/-- The memory release (R61, R137, R162), from `s` with the slots `slots` and with `ops` unperformed: the operations are
discarded and their posted writes counted, the fetch unit is abandoned, the unanswered slots are refused RESET, and
RESET_ANSWER begins. -/
def Released (s u : State) (slots : SlotIx → Slot) (ops : List MemOp) : Prop :=
  u.sequence = .resetAnswer ∧ u.port.queue = [] ∧ u.port.current = none ∧ u.port.discards = postedWrites ops ∧
  u.port.timing = s.port.timing ∧ u.port.forwardPtr = s.port.forwardPtr ∧ u.port.ma = s.port.ma ∧
  u.port.mle = s.port.mle ∧ u.fetch = emptyFetch ∧ (∀ i, u.slot i = releasedSlot (slots i)) ∧
  u.intake.orders = s.intake.orders ∧ u.intake.presented = s.intake.presented ∧
  u.intake.turnPtr = s.intake.turnPtr ∧ u.intake.responsePtr = s.intake.responsePtr ∧
  u.mode = s.mode ∧ u.contexts = s.contexts ∧ u.cache = s.cache ∧ u.resetActive = s.resetActive ∧
  u.waiting = s.waiting ∧ u.freeCount = s.freeCount ∧ u.pending = s.pending

/-- The log at the end of SOFT_RESET: RESET_DONE with `n` discarded writes, the mask as it was (R153). -/
def resetDoneLog (l : FaultLog) (n : Nat) : FaultLog :=
  { records := [{ seq := 0
                  info := { cause := .resetDone, org := none, access := none, window := none, stamp := none,
                            place := none, detail := some (BitVec.ofNat 8 n) }
                  repeats := 0 }]
    nextSeq := 1
    lost := 0
    mask := l.mask }

/-- The four contexts OFF with every field 0 (R38, R39). -/
def offContexts : Vector Context 4 :=
  Vector.replicate 4
    { state := .off, tableTarget := 0, tableBase := 0, windowCount := 0, limit := 0, count := 0 }

/-- The cache with every entry FREE. -/
def emptyCache : Cache := { entries := Vector.replicate 16 .free, recency := [], asking := [] }

/-- SOFT_RESET has completed (R164), with `n` posted writes discarded and an intake that was empty: BOOT, contexts and
cache cleared, pointers 0, timing records as they were. -/
def ResetCompleted (s u : State) (n : Nat) : Prop :=
  u.mode = .boot ∧ u.sequence = .none ∧ u.contexts = offContexts ∧ u.cache = emptyCache ∧ u.fetch = emptyFetch ∧
  u.intake = { s.intake with turnPtr := 0, responsePtr := 0 } ∧ u.port.queue = [] ∧ u.port.current = none ∧
  u.port.discards = 0 ∧ u.port.forwardPtr = 0 ∧ u.port.timing = s.port.timing ∧ u.port.ma = s.port.ma ∧
  u.port.mle = s.port.mle ∧ u.log = resetDoneLog s.log n ∧ u.resetActive = s.resetActive ∧ u.waiting = s.waiting ∧
  u.freeCount = s.freeCount ∧ u.pending = s.pending

/-- The end of the operation in progress in RESET_MEMORY, from `s` with the slots `slots`, the log `l` and `ops`
unperformed: the memory release while a slot is held, and the completion of SOFT_RESET in the same step when every slot
is FREE (R137, R162 to R164). -/
def ReleaseFollows (s u : State) (slots : SlotIx → Slot) (ops : List MemOp) (l : FaultLog) : Prop :=
  ((∃ i, slots i ≠ .free) → Released s u slots ops ∧ u.log = l ∧ u.engine = s.engine) ∧
  ((∀ i, slots i = .free) → ResetCompleted s u (postedWrites ops) ∧
    u.engine = { s.engine with phase := .complete .ok (Vector.replicate 24 0) })

/-- A row that ends a command frame with this code (R168). -/
def EndsFrame (c : Instr) (code : Byte) : Prop :=
  (∃ need args, frameOf c = some (code, need, args)) ∨
  (c = .unknownCommand code ∧ code ∉ [0x01, 0x02, 0x03, 0x08, 0x09, 0x10, 0x11, 0x12, 0x13, 0x14, 0x20, 0x21, 0x22, 0x23,
    0x24, 0x25, 0x26, 0x28, 0x30, 0x31, 0x32, 0x3A, 0x3F])

end Sys2Proof.Claims

open Sys2Proof Sys2Proof.Machine Sys2Proof.Claims

/-! ## The step, the reset state, and what every step keeps

A claim about a row holds in the states in which no waiting install can be made (`State.Settled`); in the others the row
acts as in the state that WAITING_INSTALL_MADE leaves, which is the last clause of `InstallWaitsAndIsMade` (R71; log 10). -/

/-- A step takes the command at the front of the queue and answers what `exec` answers on the queue's rest. -/
def Obligations.StepRunsFrontCommand : Prop :=
  ∀ (c : Instr) (rest : List Instr) (s : State),
    step { s with pending := c :: rest } = exec c { s with pending := rest }

/-- The model's choice (log 2): on an empty queue a step is one MCLK period. With nothing in progress and nothing
waiting it changes the recovery counts alone, each of which falls by 1 and stays at 0; with an operation waiting at the
head it changes them so too, and starts the operation when its target's count has come to 0. With a beat under way, an
address period is followed by the wait periods of the record, a wait period before the last counts down, other targets
recovering meanwhile, and a strobe period ends the beat as its row does. The periods whose end samples MEXT rest on a
free value (log 4) and are not named here. -/
def Obligations.EmptyQueueStepIsOnePeriod : Prop :=
  ∀ s : State, s.pending = [] → s.resetActive = false → s.Settled →
    let lowered : Vector (BitVec 2) 4 :=
      Vector.ofFn fun t => BitVec.ofNat 2 ((peek s.port.recovery t).toNat - 1)
    (∀ op rest, s.port.current = none → s.port.queue = op :: rest →
      (peek lowered op.place.target ≠ 0 → step s = .next { s with port := { s.port with recovery := lowered } }) ∧
      (peek lowered op.place.target = 0 →
        ∀ b bs, beatsOf (peek s.port.timing op.place.target).width op.place.addr.toNat op.length = b :: bs →
          step s = .next { s with
            port := { s.port with
              recovery := lowered
              current := some { timing := peek s.port.timing op.place.target, gathered := [], beat := b, rest := bs,
                                phase := .address }
              ma := b.ma
              mle := (if b.lane0 = true then 1 else 0) ||| (if b.lane1 = true then 2 else 0) } })) ∧
    (s.port.current = none → s.port.queue = [] →
      step s = .next { s with port := { s.port with recovery := lowered } }) ∧
    ∀ (pr : Progress) (op : MemOp) (rest : List MemOp), s.port.current = some pr → s.port.queue = op :: rest →
      let others : Vector (BitVec 2) 4 :=
        Vector.ofFn fun t => if t = op.place.target then peek s.port.recovery t else peek lowered t
      (pr.phase = .address → pr.timing.accessWait ≠ 0 →
        step s = .next { s with
          port := { s.port with
            recovery := others, current := some { pr with phase := .wait pr.timing.accessWait.toNat } } }) ∧
      (∀ left, 2 ≤ left → pr.phase = .wait left →
        step s = .next { s with
          port := { s.port with recovery := others, current := some { pr with phase := .wait (left - 1) } } }) ∧
      (pr.phase = .strobe → pr.rest ≠ [] → step s = exec (.beatComplete 0) s) ∧
      (pr.phase = .strobe → pr.rest = [] →
        step s = exec (match op.body with
          | .forwardRead _ _ => .forwardReadComplete 0
          | .forwardWrite _ _ => .writeOperationComplete 0
          | .tableRead _ => .tableReadComplete 0
          | .statusWrite _ => .writeOperationComplete 0) s)

/-- Right after a pin reset: BOOT, contexts OFF with every field 0, intake, cache, fetch unit, memory queue and log
empty, pointers 0, boot timing, mask clear, engine IDLE. -/
def Obligations.ResetLeavesBootState : Prop :=
  State.reset.mode = .boot ∧ State.reset.sequence = .none ∧
  (∀ o, State.reset.context o =
    { state := .off, tableTarget := 0, tableBase := 0, windowCount := 0, limit := 0, count := 0 }) ∧
  (∀ i, State.reset.slot i = .free) ∧ (∀ o, State.reset.order o = []) ∧
  State.reset.intake.turnPtr = 0 ∧ State.reset.intake.responsePtr = 0 ∧ State.reset.intake.presented = none ∧
  (∀ e, State.reset.cache.entry e = .free) ∧ State.reset.cache.recency = [] ∧ State.reset.cache.asking = [] ∧
  (∀ f, State.reset.fetch.slot f = .idle) ∧ State.reset.fetch.waitList = [] ∧
  State.reset.port.queue = [] ∧ State.reset.port.current = none ∧ (∀ t, peek State.reset.port.recovery t = 0) ∧
  State.reset.port.forwardPtr = 0 ∧ State.reset.port.discards = 0 ∧ State.reset.port.ma = 0 ∧
  State.reset.port.mle = 0 ∧
  (∀ t, peek State.reset.port.timing t = { width := .w8, accessWait := 15, recovery := 3, extendLimit := 255 }) ∧
  State.reset.log = { records := [], nextSeq := 0, lost := 0, mask := 0 } ∧ State.reset.atn = false ∧
  State.reset.engine = { phase := .idle, rejectedBusy := false, link := .quiet }

/-- The state after reset meets every condition of Safety.lean. -/
def Obligations.ResetMeetsEveryCondition : Prop :=
  State.reset.MemoryOk ∧ State.reset.port.Ok ∧ State.reset.log.Ok ∧ State.reset.IntakeOk ∧ State.reset.cache.Ok ∧
  State.reset.KeysOk ∧ State.reset.SequenceOk ∧ State.reset.PinsOk ∧ State.reset.FetchListsOk

/-- Every step keeps the external memory in its canonical form. The list of cells that holds the memory devices is the
model's own (log 6). -/
def Obligations.StepKeepsMemoryCanonical : Prop :=
  ∀ s t : State, s.MemoryOk → step s = .next t → t.MemoryOk

/-- Every step keeps the memory queue at 8 operations or fewer, at most 4 of them forwarded operations of one originator,
with the operation in progress at its head, the discard count at 8 or less, and every timing record and running beat
within TABLE 32. That an originator with 4 forwarded operations in the queue does not offer a fifth is the model's way of
keeping the bound (log 29). -/
def Obligations.StepKeepsMemoryPort : Prop :=
  ∀ s t : State, s.port.Ok → step s = .next t → t.port.Ok

/-- Every step keeps the log at 16 records or fewer, numbered without a gap. -/
def Obligations.StepKeepsLogNumbering : Prop :=
  ∀ s t : State, s.log.Ok → step s = .next t → t.log.Ok

/-- Every step keeps the order lists, the quota of four, the one resolution in progress per originator, and the response
presented. -/
def Obligations.StepKeepsIntake : Prop :=
  ∀ s t : State, s.IntakeOk → step s = .next t → t.IntakeOk

/-- Every step keeps the recency list and the asking order true of the entries. -/
def Obligations.StepKeepsCacheLists : Prop :=
  ∀ s t : State, s.cache.Ok → step s = .next t → t.cache.Ok

/-- Every step keeps each key in at most one entry and one fetch slot, never both as held and as fetched, and no fetch
slot IDLE while an asker waits. -/
def Obligations.StepKeepsKeysUnique : Prop :=
  ∀ s t : State, s.KeysOk → step s = .next t → t.KeysOk

/-- Every step keeps ENGAGE executing while the sequence is ENGAGING, and SOFT_RESET while it is in a reset phase. -/
def Obligations.StepKeepsSequenceCommand : Prop :=
  ∀ s t : State, s.SequenceOk → step s = .next t → t.SequenceOk

/-- Every step keeps at most 12 entries pinned, the place of a waiting PIN, and at most one fetch on which the command
waits. -/
def Obligations.StepKeepsPins : Prop :=
  ∀ s t : State, s.KeysOk → s.SequenceOk → s.PinsOk → step s = .next t → t.PinsOk

/-! ## Front port -/

/-- ADMISSION of a presented request, and of the request that waits: into the FREE slot with the lowest index when
admission is open and its originator holds fewer than four slots. Otherwise it waits at the front port, and nothing
else of the part changes. The operand, and that a waiting request is admitted by a later ADMISSION, are the model's
choice (log 11). -/
def Obligations.AdmissionTakesLowestFreeSlotOrWaits : Prop :=
  ∀ (s : State) (r : FrontRequest), s.Settled →
    (∀ i : SlotIx, s.resetActive = false → s.sequence.inReset = false →
      ((List.finRange 8).filter fun j => (s.slot j).heldBy r.org).length < 4 →
      s.slot i = .free → (∀ j < i, s.slot j ≠ .free) →
      let t : State := { s with
        waiting := none
        intake := { s.intake with
          slots := poke s.intake.slots i (.held
            { org := r.org
              kind := if r.kindCode = 1 then .write else if r.kindCode = 2 then .fetch else .read
              size := if r.sizeCode = 0 then .one else if r.sizeCode = 1 then .two else .four
              addr := r.addr }
            (if r.kindCode = 1 then some r.wdata else none) .queued)
          orders := poke s.intake.orders r.org (s.order r.org ++ [i]) } }
      exec (.admission (some r)) s = .next t ∧ (s.waiting = some r → exec (.admission none) s = .next t)) ∧
    (s.resetActive = true ∨ s.sequence.inReset = true ∨ (∀ j, s.slot j ≠ .free) ∨
        4 ≤ ((List.finRange 8).filter fun j => (s.slot j).heldBy r.org).length →
      exec (.admission (some r)) s = .next { s with waiting := some r } ∧
      (s.waiting = some r → exec (.admission none) s = .next s))

/-- The response channel presents the head response of the first originator, from the response pointer, that has a
prepared one; and nothing when one is presented, none is prepared, or the reset input is active. A row whose condition
does not hold changes nothing: the model's choice (log 1). -/
def Obligations.ResponsePresentedRoundRobin : Prop :=
  ∀ s : State, s.Settled →
    (∀ (o : Originator) (i : SlotIx) (tail : List SlotIx) (k : Fin 4),
      s.resetActive = false → s.intake.presented = none → o = s.intake.responsePtr + k → s.order o = i :: tail →
      (s.slot i).isAnswered = true →
      (∀ k' < k, ∀ j tl, s.order (s.intake.responsePtr + k') = j :: tl → (s.slot j).isAnswered = false) →
      exec .responsePresented s =
        .next { s with intake := { s.intake with presented := some i, responsePtr := o + 1 } }) ∧
    (s.resetActive = true ∨ s.intake.presented ≠ none ∨
        (∀ o j tl, s.order o = j :: tl → (s.slot j).isAnswered = false) →
      exec .responsePresented s = .next s)

/-- A response leaves: its slot becomes FREE and leaves its order list; a SUSPEND or ORIGINATOR_OFF of which it was the
last request ends with OK; any other command goes on. So too during a soft reset before RESET_ANSWER, where the response
channel goes on (R60). -/
def Obligations.DepartureFreesSlotAndDrains : Prop :=
  ∀ (s : State) (i : SlotIx) (a : Access) (d : Option Data) (st : Stage),
    s.resetActive = false → s.Settled → s.sequence ≠ .engaging → s.sequence ≠ .resetAnswer →
    s.intake.presented = some i → s.slot i = .held a d st →
    exec .responseDeparture s = .next { s with
      intake := { s.intake with
        slots := poke s.intake.slots i .free
        orders := poke s.intake.orders a.org ((s.order a.org).erase i)
        presented := none }
      engine := { s.engine with
        phase := match s.engine.phase with
          | .executing (.suspend o ds) =>
            if ds.erase i = [] then .complete .ok (Vector.replicate 24 0) else .executing (.suspend o (ds.erase i))
          | .executing (.originatorOff o ds) =>
            if ds.erase i = [] then .complete .ok (Vector.replicate 24 0)
            else .executing (.originatorOff o (ds.erase i))
          | p => p } }

/-- The departure of a response while ENGAGE drains: the last one resolved under the boot rules makes the switch (mode
RUN, sequence NONE, result OK), and none before it. In RESET_ANSWER: the last one clears cache, contexts and log, stores
RESET_DONE with the discard count, keeps timing records and attention mask, sets the pointers to 0 and ends SOFT_RESET
with OK in BOOT, and none before it. -/
def Obligations.LastResponseEndsEngageOrSoftReset : Prop :=
  (∀ (s : State) (i : SlotIx) (a : Access) (d : Option Data) (st : Stage),
    s.resetActive = false → s.Settled → s.sequence = .engaging → s.engine.phase = .executing .engage →
    s.intake.presented = some i → s.slot i = .held a d st →
    let left : Intake := { s.intake with
      slots := poke s.intake.slots i .free
      orders := poke s.intake.orders a.org ((s.order a.org).erase i)
      presented := none }
    ((∀ j, j ≠ i → (s.slot j).pastResolution = false) →
      exec .responseDeparture s = .next { s with
        intake := left, mode := .run, sequence := .none
        engine := { s.engine with phase := .complete .ok (Vector.replicate 24 0) } }) ∧
    ((∃ j, j ≠ i ∧ (s.slot j).pastResolution = true) →
      exec .responseDeparture s = .next { s with intake := left })) ∧
  ∀ (s : State) (i : SlotIx) (a : Access) (d : Option Data) (st : Stage),
    s.resetActive = false → s.Settled → s.sequence = .resetAnswer → s.engine.phase = .executing .softReset →
    s.intake.presented = some i → s.slot i = .held a d st →
    let left : Intake := { s.intake with
      slots := poke s.intake.slots i .free
      orders := poke s.intake.orders a.org ((s.order a.org).erase i)
      presented := none }
    ((∀ j, j ≠ i → s.slot j = .free) →
      exec .responseDeparture s = .next { s with
        mode := .boot
        sequence := .none
        contexts := offContexts
        cache := emptyCache
        port := { s.port with discards := 0, forwardPtr := 0 }
        log := resetDoneLog s.log s.port.discards
        intake := { left with turnPtr := 0, responsePtr := 0 }
        engine := { s.engine with phase := .complete .ok (Vector.replicate 24 0) } }) ∧
    ((∃ j, j ≠ i ∧ s.slot j ≠ .free) → exec .responseDeparture s = .next { s with intake := left })

/-! ## Resolution -/

/-- Steps 4, 5 and 6 in their order against one descriptor: RIGHTS, MISALIGNED, LIMIT, or the translation. A translation
through a well-formed descriptor never leaves its target: the address is the sum formed without truncation, and the last
byte of the access lies at or below 16,777,215. -/
def Obligations.StepsFourToSixInOrder : Prop :=
  (∀ (d : Descriptor) (a : Access),
    let right : Bool := match a.kind with
      | .read => d.b0.getLsbD 1
      | .write => d.b0.getLsbD 2
      | .fetch => d.b0.getLsbD 3
    let size : Nat := match a.size with
      | .one => 1
      | .two => 2
      | .four => 4
    let length : Nat := (d.b3.toNat + 256 * d.b4.toNat) * 256
    d.evaluate a =
      if right = false then .fail .rights
      else if d.b0.getLsbD 5 = true ∧ a.addr.toNat % size ≠ 0 then .fail .misaligned
      else if length < windowOffset a.addr + size then .fail .limit
      else .pass
        { place := { target := Fin.ofNat 4 (d.b0.toNat / 64)
                     addr := BitVec.ofNat 24 ((d.b1.toNat + 256 * d.b2.toNat) * 256 + windowOffset a.addr) }
          swap := d.b0.getLsbD 4
          key := { org := a.org, win := Fin.ofNat 64 (windowNumber a.addr) } }) ∧
  ∀ (d : Descriptor) (a : Access) (t : Translation), d.wellFormed = true → d.evaluate a = .pass t →
    t.place.addr.toNat = (d.b1.toNat + 256 * d.b2.toNat) * 256 + windowOffset a.addr ∧
    t.place.addr.toNat + a.size.bytes ≤ 16777216

/-- The eight bytes of one table read: absent when bit 0 of byte 0 is 0, whatever else they hold; malformed when the sum
of bytes 0 to 6, the LENGTH or the end of the window is wrong; well-formed otherwise, whatever byte 7 holds. -/
def Obligations.TableBytesJudged : Prop :=
  ∀ (b0 b1 b2 b3 b4 b5 b6 b7 : Byte),
    let d : Descriptor := { b0 := b0, b1 := b1, b2 := b2, b3 := b3, b4 := b4, b5 := b5, b6 := b6 }
    let sum := b0.toNat + b1.toNat + b2.toNat + b3.toNat + b4.toNat + b5.toNat + b6.toNat
    let base := b1.toNat + 256 * b2.toNat
    let length := b3.toNat + 256 * b4.toNat
    judgeBytes [b0, b1, b2, b3, b4, b5, b6, b7] =
      if b0.getLsbD 0 = false then .absent
      else if sum % 256 = 0xA5 ∧ 1 ≤ length ∧ length ≤ 1024 ∧ base * 256 + length * 256 ≤ 16777216 then .valid d b7
      else .malformed b5

/-- Byte `k` of a write's placed bytes is byte `k` of the value, or byte `s − 1 − k` under SWAP; and a read of the same
bytes under the same SWAP returns the low `s` bytes of the value with the upper bytes 0. -/
def Obligations.SwapPlacesAndReturnsBytes : Prop :=
  ∀ (swap : Bool) (size : AccessSize) (v : Data),
    (placedBytes swap size v).length = size.bytes ∧
    (∀ k, k < size.bytes →
      (placedBytes swap size v).getD k 0 =
        v.extractLsb' (8 * (if swap = true then size.bytes - 1 - k else k)) 8) ∧
    assemble swap (placedBytes swap size v) = v &&& (BitVec.allOnes 32 >>> (32 - 8 * size.bytes))

/-- No turn is given while a reset, ENGAGE or SOFT_RESET is in progress, to an originator with a slot in RESOLVING or
WAIT_FETCH, or to a SUSPENDED one whose oldest QUEUED slot is in no drain set of a SUSPEND; and with no eligible
originator nothing changes. A row whose condition does not hold changes nothing: the model's choice (log 1). -/
def Obligations.TurnsWithheld : Prop :=
  ∀ s : State,
    (∀ o i, s.oldestQueued o = some i →
      (s.eligible o = true ↔ s.resetActive = false ∧ s.sequence = .none ∧
        (∀ j ∈ s.order o, (s.slot j).inResolution = false) ∧
        ((s.context o).state ≠ .suspended ∨ ∃ ds, s.engine.phase = .executing (.suspend o ds) ∧ i ∈ ds))) ∧
    (∀ o, s.oldestQueued o = none → s.eligible o = false) ∧
    (s.Settled → (∀ o, s.eligible o = false) → exec .resolutionTurn s = .next s)

/-- A turn in BOOT: originator 0 inside the first 64 KiB gets the boot translation, outside it BOOT_RANGE; every other
originator gets ORIGINATOR_OFF. No boot refusal counts, and no lookup is made. -/
def Obligations.BootTurnFollowsBootRules : Prop :=
  ∀ (s : State) (o : Originator) (i : SlotIx) (a : Access) (d : Option Data),
    TurnOf s o i a d → s.mode = .boot → a.org = o →
    exec .resolutionTurn s = .next
      (if o = 0 ∧ a.addr.toNat + a.size.bytes ≤ 0x10000 then
        { s with intake := { s.intake with
            turnPtr := o + 1
            slots := poke s.intake.slots i (.held a d (.resolved
              { place := { target := 0, addr := a.addr }, swap := false, key := { org := 0, win := 0 } })) } }
      else
        { s with
          log := s.log.offer (recordOf (if o = 0 then .bootRange else .originatorOff) a none none none)
          intake := { s.intake with
            turnPtr := o + 1
            slots := poke s.intake.slots i (.held a d (.answerReady none (.refused
              (if o = 0 then .bootRange else .originatorOff)))) } })

/-- A turn in RUN that fails step 1 or step 2: ORIGINATOR_OFF, QUARANTINED or NO_WINDOW, without a lookup. -/
def Obligations.RunTurnRefusedAtStepOneOrTwo : Prop :=
  ∀ (s : State) (o : Originator) (i : SlotIx) (a : Access) (d : Option Data) (cause : Cause),
    TurnOf s o i a d → s.mode = .run → a.org = o →
    ((s.context o).state = .off ∧ cause = .originatorOff ∨ (s.context o).state = .quarantined ∧ cause = .quarantined ∨
      ((s.context o).state = .active ∨ (s.context o).state = .suspended) ∧
        (s.context o).windowCount.val ≤ windowNumber a.addr ∧ cause = .noWindow) →
    ∃ u, exec .resolutionTurn s = .next u ∧ RefusedWith s u i a d cause none ∧ TurnFrame s u ∧
      u.intake.turnPtr = o + 1 ∧ u.cache = s.cache ∧ u.fetch = s.fetch

/-- A turn in RUN whose lookup hits: the entry moves to the front of the recency list; a VALID entry decides by steps 4
to 6, its marks raised when the access passes and the entry joining the asking order with its first mark; an ABSENT entry
refuses NOT_PRESENT. -/
def Obligations.RunTurnHitIsDecidedAtOnce : Prop :=
  ∀ (s : State) (o : Originator) (i : SlotIx) (a : Access) (d : Option Data) (e : EntryIx) (key : Key),
    TurnOf s o i a d → s.mode = .run → a.org = o →
    ((s.context o).state = .active ∨ (s.context o).state = .suspended) →
    windowNumber a.addr < (s.context o).windowCount.val →
    key = { org := o, win := Fin.ofNat 64 (windowNumber a.addr) } → s.cache.find key = some e →
    ∃ u, exec .resolutionTurn s = .next u ∧ TurnFrame s u ∧ u.intake.turnPtr = o + 1 ∧ u.fetch = s.fetch ∧
      u.cache.recency = e :: s.cache.recency.erase e ∧
      match s.cache.entry e with
      | .valid k p desc st m =>
        match desc.evaluate a with
        | .pass t =>
          u.slot i = .held a d (.resolved t) ∧ (∀ j, j ≠ i → u.slot j = s.slot j) ∧ u.contexts = s.contexts ∧
          u.log = s.log ∧
          let m' : Marks :=
            { used := m.used || !st.getLsbD 0
              written := m.written || (decide (a.kind = .write) && !st.getLsbD 1) }
          u.cache.entries = poke s.cache.entries e (.valid k p desc st m') ∧
          u.cache.asking =
            if m = { used := false, written := false } ∧ m' ≠ { used := false, written := false } then
              s.cache.asking ++ [e]
            else s.cache.asking
        | .fail cause =>
          RefusedWith s u i a d cause (some desc.b5) ∧ u.cache.entries = s.cache.entries ∧
          u.cache.asking = s.cache.asking
      | _ =>
        RefusedWith s u i a d .notPresent none ∧ u.cache.entries = s.cache.entries ∧ u.cache.asking = s.cache.asking

/-- A lookup hits the entry that is VALID or ABSENT with the key, and misses when there is none. A miss is placed at the
fetch slot that holds the key, as its last waiter, else the lowest IDLE one, else the tail of the wait list. A turn in RUN whose lookup misses
leaves its slot in WAIT_FETCH and hands the miss to the fetch unit. -/
def Obligations.RunTurnMissGoesToFetchUnit : Prop :=
  (∀ (c : Cache) (u : FetchUnit) (k : Key) (w : Waiter),
    (∀ e, c.find k = some e → (c.entry e).key? = some k ∧ (c.entry e).live = true) ∧
    (c.find k = none ↔ ∀ e, ¬ ((c.entry e).key? = some k ∧ (c.entry e).live = true)) ∧
    (∀ f, (∀ g < f, (u.slot g).key? ≠ some k) →
      (∀ ws ov n ph, u.slot f = .reading k ws ov n ph →
        u.placeMiss k w = { u with slots := poke u.slots f (.reading k (ws ++ [w]) ov n ph) }) ∧
      ∀ ws n place h, u.slot f = .installing k ws n place h →
        u.placeMiss k w = { u with slots := poke u.slots f (.installing k (ws ++ [w]) n place h) }) ∧
    ((∀ f, (u.slot f).key? ≠ some k) →
      (∀ f, u.slot f = .idle → (∀ g < f, u.slot g ≠ .idle) →
        u.placeMiss k w = { u with slots := poke u.slots f (.reading k [w] false 1 .asking), asks := u.asks ++ [f] }) ∧
      ((∀ f, u.slot f ≠ .idle) → u.placeMiss k w = { u with waitList := u.waitList ++ [{ waiter := w, key := k }] }))) ∧
  ∀ (s : State) (o : Originator) (i : SlotIx) (a : Access) (d : Option Data) (key : Key),
    TurnOf s o i a d → s.mode = .run → a.org = o →
    ((s.context o).state = .active ∨ (s.context o).state = .suspended) →
    windowNumber a.addr < (s.context o).windowCount.val →
    key = { org := o, win := Fin.ofNat 64 (windowNumber a.addr) } → s.cache.find key = none →
    exec .resolutionTurn s = .next { s with
      intake := { s.intake with turnPtr := o + 1, slots := poke s.intake.slots i (.held a d .waitFetch) }
      fetch := s.fetch.placeMiss key (.request i) }

/-! ## Entry to the memory queue -/

/-- The entry arbiter grants nothing while the reset input is active, during SOFT_RESET and with 8 operations queued;
otherwise a table read first, of the slot whose asking is the oldest, then the offered status write, then the slot offered
by the first offering originator from the forward pointer; and nothing when no source asks. An originator offers its
oldest RESOLVED slot while fewer than 4 of its forwarded operations are queued: R43 and R119 give the bound, and that it
acts at the offer is the model's choice (log 29). An entry row whose kind the arbiter does not grant changes nothing,
whether entry is closed, another kind is granted, a forwarded access of the other kind is granted, or nothing is: the
model's choice (log 1). The write-back offers the oldest entry of the asking order that is not deferred; an entry is
deferred while a fetch slot in READING, phase QUEUED, holds another key whose descriptor lies at the same place; that such
a sharer is told by its address alone, whatever the window counts are, is the model's reading (log 13). -/
def Obligations.EntryArbiterOrder : Prop :=
  ∀ s : State,
    (s.resetActive = true ∨ s.sequence.inReset = true ∨ 8 ≤ s.port.queue.length → s.grant = none ∧
      (s.Settled →
        exec .forwardReadEntry s = .next s ∧ exec .forwardWriteEntry s = .next s ∧ exec .tableReadEntry s = .next s ∧
        exec .statusWriteEntry s = .next s)) ∧
    (s.resetActive = false → s.sequence.inReset = false → s.port.queue.length < 8 →
      (∀ f tail, s.fetch.asks = f :: tail → s.grant = some (.tableRead f)) ∧
      (∀ e, s.fetch.asks = [] → s.statusOffer = some e → s.grant = some (.statusWrite e)) ∧
      (∀ (o : Originator) (i : SlotIx) (k : Fin 4), s.fetch.asks = [] → s.statusOffer = none →
        o = s.port.forwardPtr + k → Offers s o i → (∀ k' < k, ∀ j, ¬ Offers s (s.port.forwardPtr + k') j) →
        s.grant = some (.forward o i)) ∧
      (s.fetch.asks = [] → s.statusOffer = none → (∀ o i, ¬ Offers s o i) → s.grant = none)) ∧
    (s.Settled →
      ((∀ f, s.grant ≠ some (.tableRead f)) → exec .tableReadEntry s = .next s) ∧
      ((∀ e, s.grant ≠ some (.statusWrite e)) → exec .statusWriteEntry s = .next s) ∧
      ((∀ o i a d t, s.grant = some (.forward o i) → s.slot i = .held a d (.resolved t) → a.kind = .write) →
        exec .forwardReadEntry s = .next s) ∧
      ((∀ o i a d t, s.grant = some (.forward o i) → s.slot i = .held a d (.resolved t) → a.kind ≠ .write) →
        exec .forwardWriteEntry s = .next s)) ∧
    (∀ (before after : List EntryIx) (e : EntryIx), s.cache.asking = before ++ e :: after → s.deferred e = false →
      (∀ e' ∈ before, s.deferred e' = true) → s.statusOffer = some e) ∧
    ((∀ e ∈ s.cache.asking, s.deferred e = true) → s.statusOffer = none) ∧
    ∀ e k p d st m, s.cache.entry e = .valid k p d st m →
      (s.deferred e = true ↔ ∃ f k' ws ov n place, s.fetch.slot f = .reading k' ws ov n (.queued place) ∧ k' ≠ k ∧
        (s.context k'.org).tableTarget = (s.context k.org).tableTarget ∧
        BitVec.ofNat 24 ((s.context k'.org).tableBase.toNat * 512 + 8 * k'.win.val) =
          BitVec.ofNat 24 ((s.context k.org).tableBase.toNat * 512 + 8 * k.win.val))

/-- FORWARD_READ_ENTRY: the slot becomes ISSUED, the operation takes the tail of the queue and starts if it can, and the
forward pointer moves behind the originator. -/
def Obligations.ForwardReadEnters : Prop :=
  ∀ (s : State) (o : Originator) (i : SlotIx) (a : Access) (d : Option Data) (t : Translation),
    Granted s (.forward o i) → s.slot i = .held a d (.resolved t) → a.kind ≠ .write →
    exec .forwardReadEntry s = .next { s with
      intake := { s.intake with slots := poke s.intake.slots i (.held a d (.issued t)) }
      port := Port.tryStart { s.port with
        queue := s.port.queue ++ [{ place := t.place, key := t.key, body := .forwardRead a i }]
        forwardPtr := o + 1 } }

/-- FORWARD_WRITE_ENTRY: the slot is posted DONE, the operation holds the placed bytes, and in the same step every key
whose descriptor the bytes touch under the contexts as they stand is invalidated, overtaken or voided. That of two touched
waiting installs the older is voided first is the model's inference (log 18, DEDUCED). -/
def Obligations.ForwardWriteEntersAndIsWatched : Prop :=
  ∀ (s : State) (o : Originator) (i : SlotIx) (a : Access) (v : Data) (t : Translation),
    Granted s (.forward o i) → s.slot i = .held a (some v) (.resolved t) → a.kind = .write →
    let touched : Cover := Cover.byKeys fun k => (s.context k.org).touches t.place a.size.bytes k.win
    ∃ u, exec .forwardWriteEntry s = .next u ∧ BoardKept s u ∧
      u.slot i = .held a (some v) (.answerReady (some t) (.done none)) ∧
      u.port = Port.tryStart { s.port with
        queue := s.port.queue ++ [
          { place := t.place, key := t.key, body := .forwardWrite a (placedBytes t.swap a.size v) }]
        forwardPtr := o + 1 } ∧
      u.contexts = s.contexts ∧
      Invalidated { s with
          intake := { s.intake with
            slots := poke s.intake.slots i (.held a (some v) (.answerReady (some t) (.done none))) } } u touched ∧
      u.engine = (fetchesVoided s touched).engine ∧
      (s.fetch.InstallsListed → (∀ f, exhausted touched (s.fetch.slot f) = false) → u.engine = s.engine)

/-- The table watch: a write of `n` bytes touches the descriptor of window `w` of a context exactly when the window count
is not 0, the target is the table's, `w` is below the count, and one of its bytes is one of the descriptor's eight. -/
def Obligations.TableWatchCoversTouchedDescriptors : Prop :=
  ∀ (c : Context) (p : Place) (n : Nat) (w : Window), 1 ≤ n →
    (c.touches p n w = true ↔
      c.windowCount ≠ 0 ∧ c.tableTarget = p.target ∧ w.val < c.windowCount.val ∧
        ∃ j k, j < n ∧ k < 8 ∧ p.addr.toNat + j = c.tableBase.toNat * 512 + 8 * w.val + k)

/-- TABLE_READ_ENTRY: the address is formed from the context as it stands, the slot's phase becomes QUEUED with it, the
slot no longer asks, and the operation takes the tail of the queue and starts if it can. -/
def Obligations.TableReadEnters : Prop :=
  ∀ (s : State) (f : FetchIx) (k : Key) (ws : List Waiter) (ov : Bool) (n : Nat) (ph : ReadPhase) (place : Place),
    Granted s (.tableRead f) → s.fetch.slot f = .reading k ws ov n ph →
    place = { target := (s.context k.org).tableTarget
              addr := BitVec.ofNat 24 ((s.context k.org).tableBase.toNat * 512 + 8 * k.win.val) } →
    exec .tableReadEntry s = .next { s with
      fetch := { s.fetch with
        slots := poke s.fetch.slots f (.reading k ws ov n (.queued place)), asks := s.fetch.asks.erase f }
      port := Port.tryStart { s.port with
        queue := s.port.queue ++ [{ place := place, key := k, body := .tableRead f }] } }

/-- STATUS_WRITE_ENTRY: the value is the memory status with the pending marks added; the entry takes it, its marks
empty and it leaves the asking order; each VALID sharer adds the value's USED and WRITTEN bits to its memory status
and loses the pending marks that the memory status then holds; a sharer's held install takes the two bits as well.
That sharers are told by their addresses alone is the model's reading (log 13). -/
def Obligations.StatusWriteEntersAndUpdatesSharers : Prop :=
  ∀ (s : State) (e : EntryIx) (k : Key) (p : Bool) (d : Descriptor) (st : Byte) (m : Marks),
    Granted s (.statusWrite e) → s.cache.entry e = .valid k p d st m →
    let value : Byte := st ||| (if m.used = true then 1 else 0) ||| (if m.written = true then 2 else 0)
    let shares : Key → Bool := fun k' => decide (k' ≠ k) && decide (s.descriptorPlace k' = s.descriptorPlace k)
    ∃ u, exec .statusWriteEntry s = .next u ∧ BoardKept s u ∧
      u.cache.entry e = .valid k p d value { used := false, written := false } ∧
      (∀ e' k' p' d' st' m', e' ≠ e → s.cache.entry e' = .valid k' p' d' st' m' → shares k' = true →
        u.cache.entry e' = .valid k' p' d' (st' ||| (value &&& 3))
          { used := m'.used && !(st' ||| (value &&& 3)).getLsbD 0
            written := m'.written && !(st' ||| (value &&& 3)).getLsbD 1 }) ∧
      (∀ e', e' ≠ e → (∀ k' p' d' st' m', s.cache.entry e' = .valid k' p' d' st' m' → shares k' = false) →
        u.cache.entry e' = s.cache.entry e') ∧
      u.cache.recency = s.cache.recency.filter (fun e' => !(u.cache.entry e').isFree) ∧
      u.cache.asking = s.cache.asking.filter (fun e' => (u.cache.entry e').hasMarks) ∧
      (∀ f k' ws n q h st', s.fetch.slot f = .installing k' ws n q (.valid h st') →
        u.fetch.slot f = .installing k' ws n q (.valid h (if shares k' = true then st' ||| (value &&& 3) else st'))) ∧
      (∀ f, (∀ k' ws n q h st', s.fetch.slot f ≠ .installing k' ws n q (.valid h st')) →
        u.fetch.slot f = s.fetch.slot f) ∧
      u.fetch.asks = s.fetch.asks ∧ u.fetch.waitList = s.fetch.waitList ∧ u.fetch.installs = s.fetch.installs ∧
      u.port = Port.tryStart { s.port with
        queue := s.port.queue ++ [{
          place := { target := (s.context k.org).tableTarget
                     addr := BitVec.ofNat 24 ((s.context k.org).tableBase.toNat * 512 + 8 * k.win.val + 7) }
          key := k, body := .statusWrite value }] } ∧
      u.contexts = s.contexts ∧ u.intake = s.intake ∧ u.mem = s.mem ∧ u.log = s.log ∧ u.engine = s.engine

/-! ## Memory port -/

/-- The beats of an operation move its bytes, each once and in ascending order, on a target of either width; their number
is that of TABLE 33 for every operation the queue can hold. A beat of access wait W that takes X extend periods ends after
2 + W + X periods, for X up to the extend limit and for no other X; one that reaches its limit L is abandoned after
1 + W + L periods. -/
def Obligations.BeatsMoveEveryByteOnce : Prop :=
  ((∀ (w : Width) (p n : Nat), 1 ≤ n → p + n ≤ 16777216 →
    (beatsOf w p n).flatMap (fun b => b.addrs) = (List.range n).map fun k => BitVec.ofNat 24 (p + k)) ∧
  (∀ p n, (beatsOf .w8 p n).length = n) ∧
  (∀ p, (beatsOf .w16 p 1).length = 1) ∧
  (∀ p, (beatsOf .w16 p 2).length = if p % 2 = 0 then 1 else 2) ∧
  (∀ p, (beatsOf .w16 p 4).length = if p % 2 = 0 then 2 else 3) ∧
  ∀ p, (beatsOf .w16 (8 * p) 8).length = 4) ∧
  ∀ (pr : Progress) (x : Nat), pr.phase = .address →
    pr.periodsToEnd x =
      (if x ≤ pr.timing.extendLimit.toNat then some (2 + pr.timing.accessWait.toNat + x) else none) ∧
    pr.periodsToAbandon = some (1 + pr.timing.accessWait.toNat + pr.timing.extendLimit.toNat)

/-- An operation entered, or left at the head by the end of another, starts at once when nothing is in progress and
its target's recovery count is 0, and waits otherwise. RECOVERY_EXPIRY: as many periods pass as the head's target
still recovers, every count falls by them, and the head operation starts: its timing record is read and the address
period of its first beat begins. That the periods pass in the row's one step is the model's choice (log 3). -/
def Obligations.HeadStartsWhenTargetRecovered : Prop :=
  (∀ (p : Port) (op : MemOp) (rest : List MemOp), p.queue = op :: rest →
    (p.current ≠ none ∨ peek p.recovery op.place.target ≠ 0 → p.tryStart = p) ∧
    (p.current = none → peek p.recovery op.place.target = 0 →
      ∀ b bs, beatsOf (peek p.timing op.place.target).width op.place.addr.toNat op.length = b :: bs →
        p.tryStart = { p with
          current := some { timing := peek p.timing op.place.target, gathered := [], beat := b, rest := bs,
                            phase := .address }
          ma := b.ma
          mle := (if b.lane0 = true then 1 else 0) ||| (if b.lane1 = true then 2 else 0) })) ∧
  ∀ (s : State) (op : MemOp) (rest : List MemOp) (b : Beat) (bs : List Beat) (timing : Timing),
    s.resetActive = false → s.Settled → s.port.current = none → s.port.queue = op :: rest →
    peek s.port.recovery op.place.target ≠ 0 → timing = peek s.port.timing op.place.target →
    beatsOf timing.width op.place.addr.toNat op.length = b :: bs →
    exec .recoveryExpiry s = .next { s with
      port := { s.port with
        recovery := Vector.ofFn fun t =>
          BitVec.ofNat 2 ((peek s.port.recovery t).toNat - (peek s.port.recovery op.place.target).toNat)
        current := some { timing := timing, gathered := [], beat := b, rest := bs, phase := .address }
        ma := b.ma
        mle := (if b.lane0 = true then 1 else 0) ||| (if b.lane1 = true then 2 else 0) } }

/-- BEAT_COMPLETE: a beat that is not the last writes or gathers its bytes, and the next beat of the operation begins
with its address period; other targets recover meanwhile. The extend periods are the row's operand and its periods
pass in the one step: the model's choice (log 3). -/
def Obligations.BeatCompleteBeginsNextBeat : Prop :=
  ∀ (s : State) (pr : Progress) (op : MemOp) (rest : List MemOp) (b : Beat) (bs : List Beat) (x n : Nat),
    s.resetActive = false → s.Settled → s.port.current = some pr → s.port.queue = op :: rest → pr.rest = b :: bs →
    pr.periodsToEnd x = some n →
    ∃ u, exec (.beatComplete x) s = .next u ∧ BoardKept s u ∧
      u.port = { s.port with
        current := some
          { timing := pr.timing
            gathered := if op.isWrite = true then pr.gathered else pr.gathered ++ beatBytes s op pr.beat
            beat := b, rest := bs, phase := .address }
        recovery := Vector.ofFn fun t =>
          if t = op.place.target then peek s.port.recovery t else BitVec.ofNat 2 ((peek s.port.recovery t).toNat - n)
        ma := b.ma
        mle := (if b.lane0 = true then 1 else 0) ||| (if b.lane1 = true then 2 else 0) } ∧
      (op.isWrite = true → BeatWritten s u op pr.beat) ∧ (op.isWrite = false → u.mem = s.mem) ∧
      u.contexts = s.contexts ∧ u.intake = s.intake ∧ u.cache = s.cache ∧ u.fetch = s.fetch ∧ u.log = s.log ∧
      u.engine = s.engine

/-- The end of a forwarded read: the bytes gathered, ordered under the SWAP of the translation, go to the slot as
DONE. The end of a write: the last bytes are written, and nothing is handed on. Either leaves the queue. The extend
periods are the row's operand and its periods pass in the one step: the model's choice (log 3). -/
def Obligations.ForwardedOperationCompletes : Prop :=
  (∀ (s : State) (pr : Progress) (op : MemOp) (rest : List MemOp) (x n : Nat) (a a' : Access) (i : SlotIx)
      (d : Option Data) (t : Translation),
    LastBeat s pr op rest x n → s.sequence ≠ .resetMemory → op.body = .forwardRead a i →
    s.slot i = .held a' d (.issued t) →
    ∃ u, exec (.forwardReadComplete x) s = .next u ∧ BoardKept s u ∧ PortAfter s u pr op rest n ∧
      u.intake = { s.intake with
        slots := poke s.intake.slots i (.held a' d (.answerReady (some t) (.done (some
          (assemble t.swap (pr.gathered ++ beatBytes s op pr.beat)))))) } ∧
      u.contexts = s.contexts ∧ u.cache = s.cache ∧ u.fetch = s.fetch ∧ u.mem = s.mem ∧ u.log = s.log ∧
      u.engine = s.engine) ∧
  ∀ (s : State) (pr : Progress) (op : MemOp) (rest : List MemOp) (x n : Nat),
    LastBeat s pr op rest x n → s.sequence ≠ .resetMemory → op.isWrite = true →
    ∃ u, exec (.writeOperationComplete x) s = .next u ∧ BoardKept s u ∧ PortAfter s u pr op rest n ∧
      BeatWritten s u op pr.beat ∧ u.intake = s.intake ∧
      u.contexts = s.contexts ∧ u.cache = s.cache ∧ u.fetch = s.fetch ∧ u.log = s.log ∧ u.engine = s.engine

/-- EXTEND_LIMIT_EXPIRY of a forwarded operation or a status write: the operation fails and leaves the queue, no byte
of the beat moves, and the log takes TARGET_TIMEOUT (the slot refused with it), POSTED_WRITE_LOST or WRITEBACK_LOST.
The periods to the limit pass in the one step: the model's choice (log 3). -/
def Obligations.ExtendLimitFailsOperation : Prop :=
  ∀ (s : State) (pr : Progress) (op : MemOp) (rest : List MemOp) (n : Nat),
    Abandons s pr op rest n → s.sequence ≠ .resetMemory →
    let lost (cause : Cause) (a : Access) : FaultInfo :=
      { cause := cause, org := some a.org, access := some (a.kind, a.size, a.addr), window := some op.key.win
        stamp := none, place := some op.place, detail := none }
    let kept (u : State) : Prop := BoardKept s u ∧ PortAfter s u pr op rest n ∧ u.mem = s.mem ∧
      u.contexts = s.contexts ∧ u.cache = s.cache ∧ u.fetch = s.fetch ∧ u.engine = s.engine
    (∀ a i a' d t, op.body = .forwardRead a i → s.slot i = .held a' d (.issued t) →
      ∃ u, exec .extendLimitExpiry s = .next u ∧ kept u ∧ u.log = s.log.offer (lost .targetTimeout a) ∧
        u.intake = { s.intake with
          slots := poke s.intake.slots i (.held a' d (.answerReady (some t) (.refused .targetTimeout))) }) ∧
    (∀ a bytes, op.body = .forwardWrite a bytes →
      ∃ u, exec .extendLimitExpiry s = .next u ∧ kept u ∧ u.log = s.log.offer (lost .postedWriteLost a) ∧
        u.intake = s.intake) ∧
    (∀ v, op.body = .statusWrite v →
      ∃ u, exec .extendLimitExpiry s = .next u ∧ kept u ∧ u.intake = s.intake ∧
        u.log = s.log.offer { cause := .writebackLost, org := some op.key.org, access := none
                              window := some op.key.win, stamp := none, place := some op.place, detail := none })

/-- In RESET_MEMORY the end of the operation in progress is the memory release, whichever operation it is, and with an
empty intake the completion of SOFT_RESET as well. A forwarded read that completes answers its slot first, and one that
fails refuses it TARGET_TIMEOUT; a write that completes writes its last bytes, and one that fails offers
POSTED_WRITE_LOST or WRITEBACK_LOST; a table read that completes or fails is taken without effect. Then the rest of the
queue is discarded and every slot still unanswered is refused RESET. The extend periods are the row's operand and its
periods pass in the one step: the model's choice (log 3). -/
def Obligations.MemoryReleaseDiscardsAndRefuses : Prop :=
  ∀ (s : State) (pr : Progress) (op : MemOp) (rest : List MemOp) (x n : Nat), s.sequence = .resetMemory →
    let recovers (u : State) : Prop := u.port.recovery = recoveryAfter s.port op.place.target pr.timing n
    let answered (i : SlotIx) (x : Slot) (j : SlotIx) : Slot := if j = i then x else s.slot j
    let lost (cause : Cause) (a : Access) : FaultInfo :=
      { cause := cause, org := some a.org, access := some (a.kind, a.size, a.addr), window := some op.key.win
        stamp := none, place := some op.place, detail := none }
    (LastBeat s pr op rest x n →
      (op.isWrite = true →
        ∃ u, exec (.writeOperationComplete x) s = .next u ∧ recovers u ∧ ReleaseFollows s u s.slot rest s.log ∧
          BeatWritten s u op pr.beat) ∧
      (∀ f, op.body = .tableRead f →
        ∃ u, exec (.tableReadComplete x) s = .next u ∧ recovers u ∧ ReleaseFollows s u s.slot rest s.log ∧
          u.mem = s.mem) ∧
      (∀ a i a' d t, op.body = .forwardRead a i → s.slot i = .held a' d (.issued t) →
        ∃ u, exec (.forwardReadComplete x) s = .next u ∧ recovers u ∧ u.mem = s.mem ∧
          ReleaseFollows s u (answered i (.held a' d (.answerReady (some t) (.done (some
            (assemble t.swap (pr.gathered ++ beatBytes s op pr.beat))))))) rest s.log)) ∧
    (Abandons s pr op rest n →
      (∀ a i a' d t, op.body = .forwardRead a i → s.slot i = .held a' d (.issued t) →
        ∃ u, exec .extendLimitExpiry s = .next u ∧ recovers u ∧ u.mem = s.mem ∧
          ReleaseFollows s u (answered i (.held a' d (.answerReady (some t) (.refused .targetTimeout)))) rest
            (s.log.offer (lost .targetTimeout a))) ∧
      (∀ a bytes, op.body = .forwardWrite a bytes →
        ∃ u, exec .extendLimitExpiry s = .next u ∧ recovers u ∧ u.mem = s.mem ∧
          ReleaseFollows s u s.slot rest (s.log.offer (lost .postedWriteLost a))) ∧
      (∀ v, op.body = .statusWrite v →
        ∃ u, exec .extendLimitExpiry s = .next u ∧ recovers u ∧ u.mem = s.mem ∧
          ReleaseFollows s u s.slot rest (s.log.offer
            { cause := .writebackLost, org := some op.key.org, access := none, window := some op.key.win
              stamp := none, place := some op.place, detail := none })) ∧
      ∀ f, op.body = .tableRead f →
        ∃ u, exec .extendLimitExpiry s = .next u ∧ recovers u ∧ u.mem = s.mem ∧
          ReleaseFollows s u s.slot rest s.log)

/-! ## The end of a fetch -/

/-- A table read whose bytes are a well-formed descriptor, or an absent one, installs it into the entry that R69
chooses, VALID with byte 7 as memory status or ABSENT; the entry keeps the pin of a STALE one, and a PIN among the
waiters pins it; every waiter is then woken in attach order with that entry, and the fetch slot is freed. The extend
periods are the row's operand and its periods pass in the one step: the model's choice (log 3). -/
def Obligations.FetchInstallsAndWakes : Prop :=
  ∀ (s : State) (pr : Progress) (op : MemOp) (rest : List MemOp) (x n : Nat) (f : FetchIx) (k : Key) (ws : List Waiter)
      (count : Nat) (place : Place) (h : Held) (e : EntryIx) (pinned fresh : Bool),
    LastBeat s pr op rest x n → s.sequence.inReset = false → op.body = .tableRead f →
    s.fetch.slot f = .reading k ws false count (.queued place) →
    ((∃ desc st, judgeBytes (pr.gathered ++ beatBytes s op pr.beat) = .valid desc st ∧ h = .valid desc st) ∨
      judgeBytes (pr.gathered ++ beatBytes s op pr.beat) = .absent ∧ h = .absent) →
    Receiver s.cache k e → (pinned = true ↔ s.cache.entry e = .stale k ∨ PinAmong s ws) →
    (fresh = true ↔ s.cache.entry e ≠ .stale k) →
    ∃ u, exec (.tableReadComplete x) s = .next u ∧ BoardKept s u ∧ PortAfter s u pr op rest n ∧ SlotFreed s u f ∧
      u.fetch.installs = s.fetch.installs ∧ u.mem = s.mem ∧
      Woken (wokenBy { s with cache := installed s.cache e k pinned h } k (installOutcome e fresh h) ws) u

/-- A table read that does not install. Overtaken: read again while fewer than five reads have been made, waking
nobody and judging nothing, and TABLE_UNSTABLE at the fifth. Malformed: BAD_DESCRIPTOR. Failed at the extend limit:
TABLE_READ_FAIL with the address of the read, overtaken or not. Each ends the fetch with its waiters woken in attach
order. The extend periods are the row's operand and its periods pass in the one step: the model's choice (log 3). -/
def Obligations.FetchEndsWithoutInstall : Prop :=
  ∀ (s : State) (pr : Progress) (op : MemOp) (rest : List MemOp) (x n : Nat) (f : FetchIx) (k : Key) (ws : List Waiter)
      (ov : Bool) (count : Nat) (place : Place),
    s.sequence.inReset = false → op.body = .tableRead f →
    s.fetch.slot f = .reading k ws ov count (.queued place) →
    let wakes (u : State) (o : FetchOutcome) : Prop :=
      BoardKept s u ∧ PortAfter s u pr op rest n ∧ SlotFreed s u f ∧ u.fetch.installs = s.fetch.installs ∧
      u.mem = s.mem ∧ Woken (wokenBy s k o ws) u
    (LastBeat s pr op rest x n → ov = true → count < 5 →
      ∃ u, exec (.tableReadComplete x) s = .next u ∧ BoardKept s u ∧ PortAfter s u pr op rest n ∧
        u.fetch = { s.fetch with
          slots := poke s.fetch.slots f (.reading k ws false (count + 1) .asking), asks := s.fetch.asks ++ [f] } ∧
        u.mem = s.mem ∧ Woken s u) ∧
    (LastBeat s pr op rest x n → ov = true → 5 ≤ count →
      ∃ u, exec (.tableReadComplete x) s = .next u ∧ wakes u .unstable) ∧
    (LastBeat s pr op rest x n → ov = false →
      ∀ b5, judgeBytes (pr.gathered ++ beatBytes s op pr.beat) = .malformed b5 →
      ∃ u, exec (.tableReadComplete x) s = .next u ∧ wakes u (.malformed b5)) ∧
    (Abandons s pr op rest n → ∃ u, exec .extendLimitExpiry s = .next u ∧ wakes u (.readFailed place))

/-- The wake of a request in WAIT_FETCH: an installed descriptor decides it by steps 4 to 6 as at a turn, its marks raised
when it passes; an absent one refuses it NOT_PRESENT; a malformed one BAD_DESCRIPTOR with byte 5 as STAMP, a failed read
TABLE_READ_FAIL with the address of the read, an unstable table TABLE_UNSTABLE with 5 as detail, none of which counts. A
refused request raises no mark (R52), and a refusal changes nothing but its slot, its context and the log. -/
def Obligations.WakeDecidesTheRequest : Prop :=
  ∀ (v : State) (k : Key) (i : SlotIx) (a : Access) (d : Option Data), v.slot i = .held a d .waitFetch →
    let uncounted (u : State) (c : Cause) (stamp : Option Byte) (place : Option Place) (detail : Option Byte) : Prop :=
      u = { v with
        log := v.log.offer (recordOf c a stamp place detail)
        intake := { v.intake with slots := poke v.intake.slots i (.held a d (.answerReady none (.refused c))) } }
    let refused (u : State) (c : Cause) (stamp : Option Byte) : Prop :=
      RefusedWith v u i a d c stamp ∧ BoardKept v u ∧ u.cache = v.cache ∧ u.fetch = v.fetch ∧ u.port = v.port ∧
      u.mem = v.mem ∧ u.engine = v.engine ∧ u.intake.orders = v.intake.orders ∧
      u.intake.presented = v.intake.presented ∧ u.intake.turnPtr = v.intake.turnPtr ∧
      u.intake.responsePtr = v.intake.responsePtr
    (∀ e desc fresh t, desc.evaluate a = .pass t →
      v.wake k (.valid e desc fresh) (.request i) = { v with
        intake := { v.intake with slots := poke v.intake.slots i (.held a d (.resolved t)) }
        cache := v.cache.raiseMarks e a.kind }) ∧
    (∀ e desc fresh c, desc.evaluate a = .fail c →
      refused (v.wake k (.valid e desc fresh) (.request i)) c (some desc.b5)) ∧
    (∀ e fresh, refused (v.wake k (.absent e fresh) (.request i)) .notPresent none) ∧
    (∀ b5, uncounted (v.wake k (.malformed b5) (.request i)) .badDescriptor (some b5) none none) ∧
    (∀ place, uncounted (v.wake k (.readFailed place) (.request i)) .tableReadFail none (some place) none) ∧
    uncounted (v.wake k .unstable (.request i)) .tableUnstable none none (some 5)

/-- The wake of a PIN or a PROBE that waited on a fetch: OK with the entry filled, or with the evaluation of the access;
FETCH_FAILED with the cause, the key and what TABLE 54 gives for it when the fetch failed. -/
def Obligations.WakeEndsTheWaitingCommand : Prop :=
  ∀ (v : State) (k : Key),
    let done (r : ResultCode) (layout : List Byte) : State := { v with
      engine := { v.engine with phase := .complete r (Vector.ofFn fun j => layout.getD j.val 0) } }
    let failed (cause : Byte) (place : List Byte) (reads stamp : Byte) : State :=
      done .fetchFailed ([cause, BitVec.ofNat 8 k.org.val, BitVec.ofNat 8 k.win.val] ++ place ++ [reads, stamp])
    (∀ k', v.engine.phase = .executing (.pin k') → ∀ (e : EntryIx) (fresh : Bool),
      (∀ desc, v.wake k (.valid e desc fresh) .command =
        done .ok [BitVec.ofNat 8 e.val, 1, if fresh = true then 1 else 0]) ∧
      v.wake k (.absent e fresh) .command = done .ok [BitVec.ofNat 8 e.val, 2, if fresh = true then 1 else 0]) ∧
    (∀ a, v.engine.phase = .executing (.probe a) → ∀ (e : EntryIx) (fresh : Bool),
      let window : Byte := BitVec.ofNat 8 (windowNumber a.addr)
      (∀ desc, v.wake k (.valid e desc fresh) .command =
        match desc.evaluate a with
        | .pass t => done .ok [0, 0, BitVec.ofNat 8 t.place.target.val, t.place.addr.extractLsb' 0 8,
            t.place.addr.extractLsb' 8 8, t.place.addr.extractLsb' 16 8, if t.swap = true then 1 else 0, window,
            desc.b5, 3]
        | .fail c => done .ok [1, BitVec.ofNat 8 c.code, 0, 0, 0, 0, 0, window, desc.b5, 3]) ∧
      v.wake k (.absent e fresh) .command = done .ok [1, 5, 0, 0, 0, 0, 0, window, 0, 2]) ∧
    ((∃ k', v.engine.phase = .executing (.pin k')) ∨ (∃ a, v.engine.phase = .executing (.probe a)) →
      (∀ b5, v.wake k (.malformed b5) .command = failed 6 [0, 0, 0, 0] 0 b5) ∧
      (∀ p : Place, v.wake k (.readFailed p) .command =
        failed 11 [BitVec.ofNat 8 p.target.val, p.addr.extractLsb' 0 8, p.addr.extractLsb' 8 8,
          p.addr.extractLsb' 16 8] 0 0) ∧
      v.wake k .unstable .command = failed 10 [0, 0, 0, 0] 5 0)

/-- A completed read that no entry can receive waits: the slot is INSTALLING with what it read and stands behind the
installs that wait already. When an entry can receive the oldest of them, WAITING_INSTALL_MADE makes it, wakes its
waiters in attach order and frees the slot; when none can, nothing changes, as for every row whose condition does not
hold (the model's choice, log 1). The install is made at once: any other row, those of the reset input apart, and a step
on an empty queue act as in the state that WAITING_INSTALL_MADE leaves; and after it has been made twice no waiting
install can be made (log 10). The extend periods are the row's operand and its periods pass in the one step: the model's
choice (log 3). -/
def Obligations.InstallWaitsAndIsMade : Prop :=
  (∀ (s : State) (pr : Progress) (op : MemOp) (rest : List MemOp) (x n : Nat) (f : FetchIx) (k : Key)
      (ws : List Waiter) (count : Nat) (place : Place) (h : Held),
    LastBeat s pr op rest x n → s.sequence.inReset = false → op.body = .tableRead f →
    s.fetch.slot f = .reading k ws false count (.queued place) →
    ((∃ desc st, judgeBytes (pr.gathered ++ beatBytes s op pr.beat) = .valid desc st ∧ h = .valid desc st) ∨
      judgeBytes (pr.gathered ++ beatBytes s op pr.beat) = .absent ∧ h = .absent) →
    (∀ e, s.cache.entry e ≠ .stale k ∧ s.cache.entry e ≠ .free ∧ (s.cache.entry e).evictable = false) →
    ∃ u, exec (.tableReadComplete x) s = .next u ∧ BoardKept s u ∧ PortAfter s u pr op rest n ∧
      u.fetch = { s.fetch with
        slots := poke s.fetch.slots f (.installing k ws count place h), installs := s.fetch.installs ++ [f] } ∧
      u.mem = s.mem ∧ Woken s u) ∧
  (∀ (s : State) (f : FetchIx) (later : List FetchIx) (k : Key) (ws : List Waiter) (count : Nat) (place : Place)
      (h : Held),
    s.resetActive = false → s.fetch.installs = f :: later → s.fetch.slot f = .installing k ws count place h →
    (∀ (e : EntryIx) (pinned fresh : Bool), Receiver s.cache k e →
      (pinned = true ↔ s.cache.entry e = .stale k ∨ PinAmong s ws) → (fresh = true ↔ s.cache.entry e ≠ .stale k) →
      ∃ u, exec .waitingInstallMade s = .next u ∧ BoardKept s u ∧ SlotFreed s u f ∧ u.fetch.installs = later ∧
        u.port = s.port ∧ u.mem = s.mem ∧
        Woken (wokenBy { s with cache := installed s.cache e k pinned h } k (installOutcome e fresh h) ws) u) ∧
    ((∀ e, s.cache.entry e ≠ .stale k ∧ s.cache.entry e ≠ .free ∧ (s.cache.entry e).evictable = false) →
      exec .waitingInstallMade s = .next s)) ∧
  ∀ s u v : State, s.resetActive = false → exec .waitingInstallMade s = .next u → exec .waitingInstallMade u = .next v →
    (∀ c : Instr, c ≠ .waitingInstallMade → c ≠ .resetAsserted → c ≠ .resetReleased →
      exec c s = exec c u ∧ exec c s = exec c v) ∧
    (s.pending = [] → step s = step v) ∧ (s.cache.Ok → v.Settled)

/-! ## Fault log -/

/-- TABLE 41: an offered record merges into the newest when cause, originator, window and kind are equal, with the
repeat count staying at 255; else it is stored with the next sequence number while fewer than 16 are held; else it is
dropped and the lost count rises, staying at 255. -/
def Obligations.OfferMergesStoresOrDrops : Prop :=
  ∀ (l : FaultLog) (f : FaultInfo),
    let new : FaultLog :=
      if l.records.length < 16 then
        { l with records := l.records ++ [{ seq := l.nextSeq, info := f, repeats := 0 }], nextSeq := l.nextSeq + 1 }
      else { l with lost := if l.lost = 255 then 255 else l.lost + 1 }
    (l.records = [] → l.offer f = new) ∧
    ∀ older r, l.records = older ++ [r] →
      l.offer f =
        if r.info.cause = f.cause ∧ r.info.org = f.org ∧ r.info.window = f.window ∧
            r.info.access.map Prod.fst = f.access.map Prod.fst then
          { l with records := older ++ [{ r with repeats := if r.repeats = 255 then 255 else r.repeats + 1 }] }
        else new

/-- ATN is active exactly while a held record's cause is enabled, or the lost count is not 0 and enabled, outside a pin
reset. -/
def Obligations.AttentionFollowsLogAndMask : Prop :=
  ∀ s : State,
    s.atn = true ↔ s.resetActive = false ∧
      ((∃ r ∈ s.log.records, s.log.mask.getLsbD r.info.cause.code = true) ∨
        s.log.lost ≠ 0 ∧ s.log.mask.getLsbD 0 = true)

/-- LOG_HEAD returns the oldest record and leaves the log; LOG_POP returns and removes it; LOG_CLEAR removes every
record and the lost count; an empty log gives NOT_FOUND. The next sequence number and the mask stay. The 18 bytes of a
record are those of TABLE 42, with a presence bit for each group of fields and 0 for an absent field. The row is the
end of a frame or the whole frame: the model's choice (log 8). -/
def Obligations.LogCommandsReadAndEmpty : Prop :=
  (∀ (s : State) (args : List Byte),
    (Receives s 0x30 →
      (s.log.records = [] → exec (.logHead args) s = .next { s with engine := ended s .notFound [] }) ∧
      ∀ r later, s.log.records = r :: later →
        exec (.logHead args) s = .next { s with engine := ended s .ok r.layout }) ∧
    (Receives s 0x31 →
      (s.log.records = [] → exec (.logPop args) s = .next { s with engine := ended s .notFound [] }) ∧
      ∀ r later, s.log.records = r :: later →
        exec (.logPop args) s =
          .next { s with log := { s.log with records := later }, engine := ended s .ok r.layout }) ∧
    (Receives s 0x32 →
      exec (.logClear args) s =
        .next { s with log := { s.log with records := [], lost := 0 }, engine := ended s .ok [] })) ∧
  ∀ r : FaultRecord,
    let bit {α : Type} (x : Option α) (value : Nat) : Nat := if x.isSome = true then value else 0
    let access : List Byte :=
      match r.info.access with
      | none => [0, 0, 0, 0, 0]
      | some (k, z, a) =>
        [match k with
          | .read => 0
          | .write => 1
          | .fetch => 2,
         match z with
          | .one => 1
          | .two => 2
          | .four => 4,
         a.extractLsb' 0 8, a.extractLsb' 8 8, a.extractLsb' 16 8]
    let place : List Byte :=
      match r.info.place with
      | none => [0, 0, 0, 0]
      | some p => [BitVec.ofNat 8 p.target.val, p.addr.extractLsb' 0 8, p.addr.extractLsb' 8 8, p.addr.extractLsb' 16 8]
    r.layout =
      [r.seq.extractLsb' 0 8, r.seq.extractLsb' 8 8, BitVec.ofNat 8 r.info.cause.code,
       BitVec.ofNat 8 (bit r.info.org 1 + bit r.info.access 2 + bit r.info.window 4 + bit r.info.stamp 8 +
         bit r.info.place 16 + bit r.info.detail 32),
       match r.info.org with
        | none => 0
        | some o => BitVec.ofNat 8 o.val] ++ access ++
      [match r.info.window with
        | none => 0
        | some w => BitVec.ofNat 8 w.val,
       r.info.stamp.getD 0] ++ place ++ [r.info.detail.getD 0, r.repeats]

/-! ## Reset input and management link -/

/-- RESET_ASSERTED: every block takes its pin-reset values and the input holds the part; memory keeps its bytes when no
write strobe is cut; a frame in progress is ignored to its end. The model's choice (log 15): the request on the request
channel and the queue of commands are outside the part and stay. RESET_RELEASED: the input no longer holds the part, and
nothing else changes. -/
def Obligations.ResetInputTakesAndReleases : Prop :=
  ∀ s : State,
    (∃ u, exec .resetAsserted s = .next u ∧
      u.resetActive = true ∧ u.mode = .boot ∧ u.sequence = .none ∧ u.contexts = State.reset.contexts ∧
      u.intake = State.reset.intake ∧ u.cache = State.reset.cache ∧ u.fetch = State.reset.fetch ∧
      u.port = State.reset.port ∧ u.log = State.reset.log ∧ u.engine.phase = .idle ∧ u.engine.rejectedBusy = false ∧
      (∀ c, s.engine.phase = .receiving c → u.engine.link = .ignored c) ∧ u.atn = false ∧ u.msel = 15 ∧
      u.response = none ∧ (∀ m k, u.msdo m k = none) ∧ u.waiting = s.waiting ∧ u.pending = s.pending ∧
      ((∀ pr op rest, s.port.current = some pr → s.port.queue = op :: rest →
          pr.phase ≠ .strobe ∨ op.isWrite = false) → u.mem = s.mem)) ∧
    exec .resetReleased s = .next { s with resetActive := false } ∧
    (s.sequence = .none → State.isOpen { s with resetActive := false } = true)

/-- STATUS: the reply is the status byte, the last result and the 24 result bytes as they stand, and REJECTED_BUSY is
cleared behind it. CODE_BYTE_WHOLE of a command frame: received in IDLE and COMPLETE, discarding the held result;
refused as busy in EXECUTING, with REJECTED_BUSY set and the rest ignored. STATUS in RECEIVING, and a code byte 0x01
as STATUS, are the model's choice (logs 9 and 22). MSDO is not driven while MSSEL is released or the reset input is
active; while MSSEL is asserted it carries the reply on the 26 bytes behind the code byte of a STATUS frame, and 0x00 on
every other byte (log 27). -/
def Obligations.StatusAnswersAndCodeByteBegins : Prop :=
  (∀ (s : State) (k : Nat),
    s.msdo false k = none ∧ (s.resetActive = true → ∀ m, s.msdo m k = none) ∧
    (s.resetActive = false →
      (∀ reply, s.engine.link = .status reply →
        s.msdo true 0 = some 0 ∧ (∀ j : Fin 26, s.msdo true (j.val + 1) = some (peek reply j)) ∧
        (26 < k → s.msdo true k = some 0)) ∧
      ((∀ reply, s.engine.link ≠ .status reply) → s.msdo true k = some 0))) ∧
  (∀ s : State, s.resetActive = false → s.Settled →
    ∃ reply : Vector Byte 26,
      exec .status s = .next { s with engine := { s.engine with rejectedBusy := false, link := .status reply } } ∧
      exec (.codeByteWhole 0x01) s = exec .status s ∧
      peek reply 0 =
        (match s.engine.phase with
          | .idle => 0
          | .receiving _ => 1
          | .executing _ => 2
          | .complete _ _ => 3) +
        (if s.mode = .run then 4 else 0) + (if s.atn = true then 8 else 0) +
        (if s.engine.rejectedBusy = true then 16 else 0) ∧
      peek reply 1 =
        (match s.engine.phase with
          | .idle => 0
          | .receiving _ => 0
          | .executing _ => 2
          | .complete r _ => r.code) ∧
      ∀ k : Fin 24, peek reply ⟨k.val + 2, by omega⟩ =
        match s.engine.phase with
        | .complete _ b => peek b k
        | _ => 0) ∧
  ∀ (s : State) (code : Byte), s.resetActive = false → s.Settled → code ≠ 0x01 →
    ((s.engine.phase = .idle ∨ ∃ r b, s.engine.phase = .complete r b) →
      exec (.codeByteWhole code) s =
        .next { s with engine := { s.engine with phase := .receiving code, link := .quiet } }) ∧
    (∀ c, s.engine.phase = .executing c →
      exec (.codeByteWhole code) s =
        .next { s with engine := { s.engine with rejectedBusy := true, link := .ignored code } })

/-- The end of a command frame that reaches no command: too short, SHORT_FRAME and no effect; a code that names none,
UNKNOWN_COMMAND. A frame that is being ignored ends without effect, whatever its code, while a command executes (R171)
and while the engine is IDLE or holds a result, which stays (R171, R174). A whole frame that comes while a command
executes is refused as busy, whatever its code. A frame that ends while the reset input is active only leaves the link
(log 26). The whole frame in one step is the model's choice (log 8). -/
def Obligations.FrameThatReachesNoCommand : Prop :=
  (∀ (s : State) (code : Byte), Receives s code →
    code ∉ [0x01, 0x02, 0x03, 0x08, 0x09, 0x10, 0x11, 0x12, 0x13, 0x14, 0x20, 0x21, 0x22, 0x23, 0x24, 0x25, 0x26, 0x28,
      0x30, 0x31, 0x32, 0x3A, 0x3F] →
    exec (.unknownCommand code) s = .next { s with engine := ended s .unknownCommand [] }) ∧
  (∀ (s : State) (c : Instr) (code : Byte) (need : Nat) (args : List Byte), frameOf c = some (code, need, args) →
    Receives s code → args.length < need → exec c s = .next { s with engine := ended s .shortFrame [] }) ∧
  ∀ (s : State) (c : Instr) (code : Byte), EndsFrame c code →
    (s.resetActive = true → exec c s = .next { s with engine := { s.engine with link := .quiet } }) ∧
    (s.resetActive = false → s.Settled → (∀ code', s.engine.phase ≠ .receiving code') → s.engine.link = .ignored code →
      exec c s = .next { s with engine := { s.engine with link := .quiet } }) ∧
    (∀ l, s.resetActive = false → s.Settled → s.engine.phase = .executing l → s.engine.link ≠ .ignored code →
      exec c s = .next { s with engine := { s.engine with rejectedBusy := true, link := .quiet } })

/-! ## Words and contexts -/

/-- READ_WORD of each of the eight words, and BAD_ARGUMENT above 7. The row is the end of a frame or the whole frame:
the model's choice (log 8). -/
def Obligations.ReadWordReturnsTheWord : Prop :=
  ∀ (s : State) (n : Byte) (more : List Byte), Receives s 0x02 →
    let timing (t : Target) : List Byte :=
      [match (peek s.port.timing t).width with
        | .w8 => 0
        | .w16 => 1,
       (peek s.port.timing t).accessWait.setWidth 8, (peek s.port.timing t).recovery.setWidth 8,
       (peek s.port.timing t).extendLimit]
    exec (.readWord (n :: more)) s = .next { s with
      engine := if n = 0 then ended s .ok [0x16, 0x04, 0x01, 0]
      else if n = 1 then ended s .ok [if s.mode = .run then 1 else 0, 0, 0, 0]
      else if n = 2 then
        ended s .ok [s.log.mask.extractLsb' 0 8, s.log.mask.extractLsb' 8 8, s.log.mask.extractLsb' 16 8, 0]
      else if n = 3 then ended s .ok (timing 0)
      else if n = 4 then ended s .ok (timing 1)
      else if n = 5 then ended s .ok (timing 2)
      else if n = 6 then ended s .ok (timing 3)
      else if n = 7 then ended s .ok [BitVec.ofNat 8 s.log.records.length, s.log.lost, 0, 0]
      else ended s .badArgument [] }

/-- WRITE_WORD of word 2 writes the attention mask whole; a set enable of code 14 or 15, or a bit above code 19, ends
with BAD_ARGUMENT and leaves the mask. WRITE_WORD of a timing word writes the record of its target whole when every
field is in range, and the operation in progress and the recovery counts stay. Any other word ends with BAD_ARGUMENT.
The row is the end of a frame or the whole frame: the model's choice (log 8). -/
def Obligations.WritableWordsAreWrittenWhole : Prop :=
  (∀ (s : State) (v0 v1 v2 v3 : Byte) (more : List Byte), Receives s 0x03 →
    let after : State :=
      if v1.toNat < 64 ∧ v2.toNat < 16 ∧ v3 = 0 then
        { s with
          log := { s.log with mask := BitVec.ofNat 20 (v0.toNat + 256 * v1.toNat + 65536 * v2.toNat) }
          engine := ended s .ok [] }
      else { s with engine := ended s .badArgument [] }
    exec (.writeAttentionMask (v0 :: v1 :: v2 :: v3 :: more)) s = .next after ∧
    exec (.writeWord (2 :: v0 :: v1 :: v2 :: v3 :: more)) s = .next after) ∧
  ∀ (s : State) (t : Target) (v0 v1 v2 v3 : Byte) (more : List Byte), Receives s 0x03 →
    let record : Timing :=
      { width := if v0 = 1 then .w16 else .w8, accessWait := v1.setWidth 4, recovery := v2.setWidth 2, extendLimit := v3 }
    let after : State :=
      if v0.toNat ≤ 1 ∧ v1.toNat ≤ 15 ∧ v2.toNat ≤ 3 ∧ v3 ≠ 0 then
        { s with port := { s.port with timing := poke s.port.timing t record }, engine := ended s .ok [] }
      else { s with engine := ended s .badArgument [] }
    exec (.writeTimingRecord t (v0 :: v1 :: v2 :: v3 :: more)) s = .next after ∧
    exec (.writeWord (BitVec.ofNat 8 (3 + t.val) :: v0 :: v1 :: v2 :: v3 :: more)) s = .next after ∧
    ∀ n : Byte, n = 0 ∨ n = 1 ∨ 7 ≤ n.toNat →
      exec (.writeWord (n :: v0 :: v1 :: v2 :: v3 :: more)) s = .next { s with engine := ended s .badArgument [] }

/-- GET_CONTEXT returns the six fields of the context and changes nothing; an originator above 3 gives BAD_ARGUMENT.
The row is the end of a frame or the whole frame: the model's choice (log 8). -/
def Obligations.GetContextReturnsSixFields : Prop :=
  ∀ (s : State) (b : Byte) (more : List Byte), Receives s 0x08 →
    (∀ o : Originator, b.toNat = o.val →
      exec (.getContext (b :: more)) s = .next { s with
        engine := ended s .ok
         [match (s.context o).state with
            | .off => 0
            | .active => 1
            | .suspended => 2
            | .quarantined => 3,
          BitVec.ofNat 8 (s.context o).tableTarget.val, (s.context o).tableBase.extractLsb' 0 8,
          (s.context o).tableBase.extractLsb' 8 8, BitVec.ofNat 8 (s.context o).windowCount.val,
          (s.context o).limit, (s.context o).count] }) ∧
    (3 < b.toNat → exec (.getContext (b :: more)) s = .next { s with engine := ended s .badArgument [] })

/-- SET_CONTEXT: out of range BAD_ARGUMENT; in RUN and ACTIVE or QUARANTINED WRONG_STATE; else the five fields are
written, the state stays, the originator's entries, fetches and waiting installs are invalidated, and it ends OK. That of
two waiting installs of the originator the older is voided first is the model's inference (log 18, DEDUCED). The row is
the end of a frame or the whole frame: the model's choice (log 8). -/
def Obligations.SetContextWritesAndInvalidates : Prop :=
  ∀ (s : State) (b bt bl bh bc lim : Byte) (more : List Byte), Receives s 0x09 →
    (3 < b.toNat ∨ 3 < bt.toNat ∨ 127 < bh.toNat ∨ 64 < bc.toNat →
      exec (.setContext (b :: bt :: bl :: bh :: bc :: lim :: more)) s =
        .next { s with engine := ended s .badArgument [] }) ∧
    ∀ (o : Originator) (t : Target) (count : Fin 65), b.toNat = o.val → bt.toNat = t.val → bh.toNat ≤ 127 →
      bc.toNat = count.val →
      (s.mode = .run → ((s.context o).state = .active ∨ (s.context o).state = .quarantined) →
        exec (.setContext (b :: bt :: bl :: bh :: bc :: lim :: more)) s =
          .next { s with engine := ended s .wrongState [] }) ∧
      (s.mode = .boot ∨ (s.context o).state = .off ∨ (s.context o).state = .suspended →
        ∃ u, exec (.setContext (b :: bt :: bl :: bh :: bc :: lim :: more)) s = .next u ∧ BoardKept s u ∧
          u.contexts = poke s.contexts o
            { state := (s.context o).state, tableTarget := t
              tableBase := BitVec.ofNat 15 (bl.toNat + 256 * bh.toNat), windowCount := count, limit := lim, count := 0 } ∧
          Invalidated s u (Cover.byKeys fun k => decide (k.org = o)) ∧ u.port = s.port ∧
          u.engine = ended s .ok [])

/-- ORIGINATOR_ON from OFF with a window count, RESUME from SUSPENDED, RELEASE_QUARANTINE from QUARANTINED (with the
count set to 0) make the originator ACTIVE and end OK. SUSPEND from ACTIVE and ORIGINATOR_OFF from every state but OFF
change the state at acceptance and take the drain set of the requests still without a response: OK at once when it is
empty, EXECUTING otherwise. Every other state gives WRONG_STATE; above 3 BAD_ARGUMENT. The row is the end of a frame
or the whole frame: the model's choice (log 8). -/
def Obligations.OriginatorStateCommands : Prop :=
  (∀ (s : State) (b : Byte) (more : List Byte) (o : Originator),
    let bad : Host.Outcome State Fault Refusal := .next { s with engine := ended s .badArgument [] }
    let wrong : Host.Outcome State Fault Refusal := .next { s with engine := ended s .wrongState [] }
    (3 < b.toNat →
      (Receives s 0x10 → exec (.originatorOn (b :: more)) s = bad) ∧
      (Receives s 0x13 → exec (.resume (b :: more)) s = bad) ∧
      (Receives s 0x14 → exec (.releaseQuarantine (b :: more)) s = bad)) ∧
    (b.toNat = o.val →
      (Receives s 0x10 → exec (.originatorOn (b :: more)) s =
        if (s.context o).state = .off ∧ (s.context o).windowCount ≠ 0 then
          .next { withContext s o { s.context o with state := .active } with engine := ended s .ok [] }
        else wrong) ∧
      (Receives s 0x13 → exec (.resume (b :: more)) s =
        if (s.context o).state = .suspended then
          .next { withContext s o { s.context o with state := .active } with engine := ended s .ok [] }
        else wrong) ∧
      (Receives s 0x14 → exec (.releaseQuarantine (b :: more)) s =
        if (s.context o).state = .quarantined then
          .next { withContext s o { s.context o with state := .active, count := 0 } with engine := ended s .ok [] }
        else wrong))) ∧
  ∀ (s : State) (b : Byte) (more : List Byte) (o : Originator),
    let bad : Host.Outcome State Fault Refusal := .next { s with engine := ended s .badArgument [] }
    let wrong : Host.Outcome State Fault Refusal := .next { s with engine := ended s .wrongState [] }
    (3 < b.toNat →
      (Receives s 0x12 → exec (.suspend (b :: more)) s = bad) ∧
      (Receives s 0x11 → exec (.originatorOff (b :: more)) s = bad)) ∧
    (b.toNat = o.val →
      (Receives s 0x12 → exec (.suspend (b :: more)) s =
        if (s.context o).state = .active then
          .next { withContext s o { s.context o with state := .suspended } with
            engine := if s.order o = [] then ended s .ok [] else held s (.suspend o (s.order o)) }
        else wrong) ∧
      (Receives s 0x11 → exec (.originatorOff (b :: more)) s =
        if (s.context o).state ≠ .off then
          .next { withContext s o { s.context o with state := .off } with
            engine := if s.order o = [] then ended s .ok [] else held s (.originatorOff o (s.order o)) }
        else wrong))

/-! ## Cache commands and mode -/

/-- INVALIDATE, INVALIDATE_ORIGINATOR, INVALIDATE_STAMP and INVALIDATE_ALL invalidate what they cover and end OK with
the number of entries they turned FREE or STALE; an argument out of range gives BAD_ARGUMENT. That of two covered waiting
installs the older is voided first is the model's inference (log 18, DEDUCED). The row is the end of a frame or the whole
frame: the model's choice (log 8). -/
def Obligations.InvalidationCommandsCover : Prop :=
  ∀ (s : State) (b0 b1 : Byte) (more : List Byte) (o : Originator) (w : Window),
    let bad : Host.Outcome State Fault Refusal := .next { s with engine := ended s .badArgument [] }
    let acts (c : Instr) (v : Cover) : Prop := ∃ u, exec c s = .next u ∧ BoardKept s u ∧ Invalidated s u v ∧
      u.contexts = s.contexts ∧ u.port = s.port ∧ u.engine = ended s .ok [BitVec.ofNat 8 (voidedCount s v)]
    (Receives s 0x20 →
      (3 < b0.toNat ∨ 63 < b1.toNat → exec (.invalidate (b0 :: b1 :: more)) s = bad) ∧
      (b0.toNat = o.val → b1.toNat = w.val →
        acts (.invalidate (b0 :: b1 :: more)) (Cover.byKeys fun k => decide (k = { org := o, win := w })))) ∧
    (Receives s 0x21 →
      (3 < b0.toNat → exec (.invalidateOriginator (b0 :: more)) s = bad) ∧
      (b0.toNat = o.val → acts (.invalidateOriginator (b0 :: more)) (Cover.byKeys fun k => decide (k.org = o)))) ∧
    (Receives s 0x22 → acts (.invalidateStamp (b0 :: more)) (Cover.byStamp b0)) ∧
    (Receives s 0x23 → acts (.invalidateAll more) (Cover.byKeys fun _ => true))

/-- PIN, in the order of its checks: BAD_ARGUMENT out of range; WRONG_STATE for an OFF context or a window not below
the count; NO_ROOM when no entry of the key is pinned and 12 are, a hit entry moved to the front all the same; else a
hit sets the flag and ends OK with the entry, its state and whether the flag was clear, and a miss makes PIN long,
handed to the fetch unit as a request's miss is. The row is the end of a frame or the whole frame: the model's choice
(log 8). -/
def Obligations.PinChecksThenHitsOrFetches : Prop :=
  ∀ (s : State) (b0 b1 : Byte) (more : List Byte), Receives s 0x24 →
    let front (e : EntryIx) : Cache := { s.cache with recency := e :: s.cache.recency.erase e }
    (3 < b0.toNat ∨ 63 < b1.toNat →
      exec (.pin (b0 :: b1 :: more)) s = .next { s with engine := ended s .badArgument [] }) ∧
    ∀ (o : Originator) (w : Window) (key : Key), b0.toNat = o.val → b1.toNat = w.val → key = { org := o, win := w } →
      ((s.context o).state = .off ∨ (s.context o).windowCount.val ≤ w.val →
        exec (.pin (b0 :: b1 :: more)) s = .next { s with engine := ended s .wrongState [] }) ∧
      ((s.context o).state ≠ .off → w.val < (s.context o).windowCount.val →
        ((∀ e, (s.cache.entry e).pinned = true → (s.cache.entry e).key? ≠ some key) →
          12 ≤ ((List.finRange 16).filter fun e => (s.cache.entry e).pinned).length →
          (∀ e, s.cache.find key = some e →
            exec (.pin (b0 :: b1 :: more)) s = .next { s with cache := front e, engine := ended s .noRoom [] }) ∧
          (s.cache.find key = none →
            exec (.pin (b0 :: b1 :: more)) s = .next { s with engine := ended s .noRoom [] })) ∧
        ((∃ e, (s.cache.entry e).pinned = true ∧ (s.cache.entry e).key? = some key) ∨
            ((List.finRange 16).filter fun e => (s.cache.entry e).pinned).length < 12 →
          (∀ e k p d st m, s.cache.find key = some e → s.cache.entry e = .valid k p d st m →
            exec (.pin (b0 :: b1 :: more)) s = .next { s with
              cache := { front e with entries := poke s.cache.entries e (.valid k true d st m) }
              engine := ended s .ok [BitVec.ofNat 8 e.val, 1, if p = true then 0 else 1] }) ∧
          (∀ e k p, s.cache.find key = some e → s.cache.entry e = .absent k p →
            exec (.pin (b0 :: b1 :: more)) s = .next { s with
              cache := { front e with entries := poke s.cache.entries e (.absent k true) }
              engine := ended s .ok [BitVec.ofNat 8 e.val, 2, if p = true then 0 else 1] }) ∧
          (s.cache.find key = none →
            exec (.pin (b0 :: b1 :: more)) s = .next { s with
              fetch := s.fetch.placeMiss key .command, engine := held s (.pin key) })))

/-- UNPIN: BAD_ARGUMENT out of range; NOT_FOUND when no pinned entry has the key; else the flag is cleared and it ends
OK, a STALE entry becoming FREE and leaving the recency list. The row is the end of a frame or the whole frame: the
model's choice (log 8). -/
def Obligations.UnpinClearsOrFrees : Prop :=
  ∀ (s : State) (b0 b1 : Byte) (more : List Byte), Receives s 0x25 →
    (3 < b0.toNat ∨ 63 < b1.toNat →
      exec (.unpin (b0 :: b1 :: more)) s = .next { s with engine := ended s .badArgument [] }) ∧
    ∀ (o : Originator) (w : Window) (key : Key), b0.toNat = o.val → b1.toNat = w.val →
      key = { org := o, win := w } →
      ((∀ e, (s.cache.entry e).pinned = true → (s.cache.entry e).key? ≠ some key) →
        exec (.unpin (b0 :: b1 :: more)) s = .next { s with engine := ended s .notFound [] }) ∧
      ∀ e, (s.cache.entry e).pinned = true → (s.cache.entry e).key? = some key →
        (∀ e' < e, ¬ ((s.cache.entry e').pinned = true ∧ (s.cache.entry e').key? = some key)) → s.cache.Ok →
        exec (.unpin (b0 :: b1 :: more)) s = .next { s with
          cache := match s.cache.entry e with
            | .valid k _ d st m => { s.cache with entries := poke s.cache.entries e (.valid k false d st m) }
            | .absent k _ => { s.cache with entries := poke s.cache.entries e (.absent k false) }
            | _ => { s.cache with
                entries := poke s.cache.entries e .free
                recency := s.cache.recency.filter fun e' => decide (e' ≠ e) }
          engine := ended s .ok [] }

/-- CACHE_READ returns the entry in the 14 bytes of TABLE 55 and changes nothing, the recency list included; an index
above 15 gives BAD_ARGUMENT. The row is the end of a frame or the whole frame: the model's choice (log 8). -/
def Obligations.CacheReadReturnsEntry : Prop :=
  ∀ (s : State) (b : Byte) (more : List Byte), Receives s 0x26 →
    (15 < b.toNat → exec (.cacheRead (b :: more)) s = .next { s with engine := ended s .badArgument [] }) ∧
    ∀ e : EntryIx, b.toNat = e.val →
      exec (.cacheRead (b :: more)) s = .next { s with
        engine := ended s .ok
         (match s.cache.entry e with
          | .free => [0, 0, 0, 0, 0, 0, 0, 0, 0, 0, 0, 0, 0, 0]
          | .valid k p d st m =>
            [1, BitVec.ofNat 8 k.org.val, BitVec.ofNat 8 k.win.val, if p = true then 1 else 0,
             BitVec.ofNat 8 (s.cache.recency.idxOf e), d.b0, d.b1, d.b2, d.b3, d.b4, d.b5, d.b6, st,
             (if m.used = true then 1 else 0) + (if m.written = true then 2 else 0)]
          | .absent k p =>
            [2, BitVec.ofNat 8 k.org.val, BitVec.ofNat 8 k.win.val, if p = true then 1 else 0,
             BitVec.ofNat 8 (s.cache.recency.idxOf e), 0, 0, 0, 0, 0, 0, 0, 0, 0]
          | .stale k =>
            [3, BitVec.ofNat 8 k.org.val, BitVec.ofNat 8 k.win.val, 1, BitVec.ofNat 8 (s.cache.recency.idxOf e),
             0, 0, 0, 0, 0, 0, 0, 0, 0]) }

/-- PROBE: BAD_ARGUMENT out of range; WRONG_STATE for an OFF context or a window count of 0; NO_WINDOW without a
lookup; a hit is evaluated by steps 4 to 6, or NOT_PRESENT; a miss makes PROBE long. It raises no mark, counts nothing
and makes no record. The row is the end of a frame or the whole frame: the model's choice (log 8). -/
def Obligations.ProbeEvaluatesWithoutTrace : Prop :=
  ∀ (s : State) (bo bk bz a0 a1 a2 : Byte) (more : List Byte), Receives s 0x28 →
    let probe : Instr := .probe (bo :: bk :: bz :: a0 :: a1 :: a2 :: more)
    (3 < bo.toNat ∨ 2 < bk.toNat ∨ ¬ (bz = 1 ∨ bz = 2 ∨ bz = 4) →
      exec probe s = .next { s with engine := ended s .badArgument [] }) ∧
    ∀ (o : Originator) (a : Access) (key : Key),
      bo.toNat = o.val → bk.toNat ≤ 2 → (bz = 1 ∨ bz = 2 ∨ bz = 4) →
      a = { org := o
            kind := if bk = 0 then .read else if bk = 1 then .write else .fetch
            size := if bz = 1 then .one else if bz = 2 then .two else .four
            addr := BitVec.ofNat 24 (a0.toNat + 256 * a1.toNat + 65536 * a2.toNat) } →
      key = { org := o, win := Fin.ofNat 64 (windowNumber a.addr) } →
      ((s.context o).state = .off ∨ (s.context o).windowCount = 0 →
        exec probe s = .next { s with engine := ended s .wrongState [] }) ∧
      ((s.context o).state ≠ .off → (s.context o).windowCount ≠ 0 →
        let window : Byte := BitVec.ofNat 8 (windowNumber a.addr)
        ((s.context o).windowCount.val ≤ windowNumber a.addr →
          exec probe s = .next { s with engine := ended s .ok [1, 4, 0, 0, 0, 0, 0, window, 0, 0] }) ∧
        (windowNumber a.addr < (s.context o).windowCount.val →
          (∀ e, s.cache.find key = some e →
            exec probe s = .next { s with
              cache := { s.cache with recency := e :: s.cache.recency.erase e }
              engine := match s.cache.entry e with
                | .valid _ _ d _ _ =>
                  match d.evaluate a with
                  | .pass t => ended s .ok [0, 0, BitVec.ofNat 8 t.place.target.val, t.place.addr.extractLsb' 0 8,
                      t.place.addr.extractLsb' 8 8, t.place.addr.extractLsb' 16 8, if t.swap = true then 1 else 0,
                      window, d.b5, 1]
                  | .fail c => ended s .ok [1, BitVec.ofNat 8 c.code, 0, 0, 0, 0, 0, window, d.b5, 1]
                | _ => ended s .ok [1, 5, 0, 0, 0, 0, 0, window, 0, 0] }) ∧
          (s.cache.find key = none →
            exec probe s = .next { s with
              fetch := s.fetch.placeMiss key .command, engine := held s (.probe a) })))

/-- ENGAGE: WRONG_STATE in RUN, and in BOOT with originator 0 not ACTIVE; else the switch at once when no slot is
RESOLVED, ISSUED or ANSWER_READY, and otherwise ENGAGING with the command executing and turns withheld. The row is the
end of a frame or the whole frame: the model's choice (log 8). -/
def Obligations.EngageSwitchesOrDrains : Prop :=
  ∀ (s : State) (args : List Byte), Receives s 0x3A →
    (s.mode = .run ∨ (s.context 0).state ≠ .active →
      exec (.engage args) s = .next { s with engine := ended s .wrongState [] }) ∧
    (s.mode = .boot → (s.context 0).state = .active → (∀ i, (s.slot i).pastResolution = false) →
      exec (.engage args) s = .next { s with mode := .run, sequence := .none, engine := ended s .ok [] }) ∧
    (s.mode = .boot → (s.context 0).state = .active → (∃ i, (s.slot i).pastResolution = true) →
      exec (.engage args) s = .next { s with sequence := .engaging, engine := held s .engage })

/-- SOFT_RESET is accepted in every mode and state: with an operation in progress it waits for it, its offers
withdrawn; with none, the memory release is the acceptance; and with an empty intake as well, it completes at once.
The row is the end of a frame or the whole frame: the model's choice (log 8). -/
def Obligations.SoftResetWaitsOrReleases : Prop :=
  ∀ (s : State) (args : List Byte), Receives s 0x3F →
    (s.port.current ≠ none →
      exec (.softReset args) s = .next { s with
        sequence := .resetMemory, fetch := { s.fetch with asks := [], installs := [] }
        engine := held s .softReset }) ∧
    (s.port.current = none → (∃ i, s.slot i ≠ .free) →
      ∃ u, exec (.softReset args) s = .next u ∧ Released s u s.slot s.port.queue ∧
        u.port.recovery = s.port.recovery ∧ u.engine = held s .softReset ∧ u.log = s.log ∧ u.mem = s.mem) ∧
    (s.port.current = none → (∀ i, s.slot i = .free) →
      ∃ u, exec (.softReset args) s = .next u ∧ ResetCompleted s u (postedWrites s.port.queue) ∧
        u.port.recovery = s.port.recovery ∧ u.engine = ended s .ok [] ∧ u.mem = s.mem)

/-! ## The lists of the fetch unit -/

/-- Every step keeps, outside a soft reset, the askings for a table read as the fetch slots in READING, phase ASKING, and
the waiting installs as those in INSTALLING, each slot once; and the fetch unit empty in RESET_ANSWER. -/
def Obligations.StepKeepsFetchLists : Prop :=
  ∀ s t : State, s.SequenceOk → s.FetchListsOk → step s = .next t → t.FetchListsOk
end

