-- ==== Sys2Proof/Laws/Find.lean ====
section
/-! SUPPORT. The searches of the model say which place they find: the lowest index, the first originator from a pointer,
the place nearest the back of a list. -/

namespace Sys2Proof.Machine

/-- In a rising list a search finds the lowest place that qualifies. -/
theorem find_rising {α : Type} [LinearOrder α] {l : List α} (hl : l.Pairwise (· < ·)) (p : α → Bool) (i : α) :
    l.find? p = some i ↔ i ∈ l ∧ p i = true ∧ ∀ j ∈ l, j < i → p j = false := by
  induction l with
  | nil => simp
  | cons a l ih =>
    rw [List.pairwise_cons] at hl
    have ih := ih hl.2
    by_cases ha : p a = true
    · rw [List.find?_cons_of_pos ha]
      constructor
      · rintro h
        cases h
        refine ⟨by simp, ha, ?_⟩
        intro j hj hlt
        rcases List.mem_cons.mp hj with rfl | hj
        · exact absurd hlt (lt_irrefl _)
        · exact absurd (hl.1 j hj) (not_lt_of_gt hlt)
      · rintro ⟨hi, hp, hmin⟩
        rcases List.mem_cons.mp hi with rfl | hi
        · rfl
        · have := hmin a (by simp) (hl.1 i hi)
          rw [ha] at this
          exact absurd this (by simp)
    · rw [List.find?_cons_of_neg ha, ih]
      constructor
      · rintro ⟨hi, hp, hmin⟩
        refine ⟨by simp [hi], hp, ?_⟩
        intro j hj hlt
        rcases List.mem_cons.mp hj with rfl | hj
        · simpa using ha
        · exact hmin j hj hlt
      · rintro ⟨hi, hp, hmin⟩
        rcases List.mem_cons.mp hi with rfl | hi
        · exact absurd hp ha
        · exact ⟨hi, hp, fun j hj => hmin j (by simp [hj])⟩

theorem find_allSlots (p : SlotIx → Bool) (i : SlotIx) :
    allSlots.find? p = some i ↔ p i = true ∧ ∀ j < i, p j = false := by
  rw [find_rising (by decide)]
  simp

theorem find_allSlots_none (p : SlotIx → Bool) : allSlots.find? p = none ↔ ∀ j, p j = false := by
  simp

theorem find_allFetchSlots (p : FetchIx → Bool) (i : FetchIx) :
    allFetchSlots.find? p = some i ↔ p i = true ∧ ∀ j < i, p j = false := by
  rw [find_rising (by decide)]
  simp

theorem find_allFetchSlots_none (p : FetchIx → Bool) : allFetchSlots.find? p = none ↔ ∀ j, p j = false := by
  simp

theorem find_allEntries (p : EntryIx → Bool) (i : EntryIx) :
    allEntries.find? p = some i ↔ p i = true ∧ ∀ j < i, p j = false := by
  rw [find_rising (by decide)]
  simp

theorem find_allEntries_none (p : EntryIx → Bool) : allEntries.find? p = none ↔ ∀ j, p j = false := by
  simp

/-- The round-robin search finds the first originator from the pointer that qualifies (R48, R57, R120). -/
theorem roundRobin_eq_some (ptr o : Originator) (p : Originator → Bool) :
    roundRobin ptr p = some o ↔ p o = true ∧ ∃ k : Fin 4, o = ptr + k ∧ ∀ k' < k, p (ptr + k') = false := by
  revert ptr o
  generalize hq : (fun o => p o) = q
  have hp : p = q := hq
  rw [hp]
  clear hq hp
  unfold roundRobin
  intro ptr o
  have h0 : ptr + 0 = ptr := add_zero ptr
  constructor
  · intro h
    by_cases h0' : q ptr = true
    · rw [List.find?_cons_of_pos h0'] at h
      cases h
      exact ⟨h0', 0, by simp, by intro k' hk'; exact absurd hk' (by simp)⟩
    · rw [List.find?_cons_of_neg h0'] at h
      by_cases h1 : q (ptr + 1) = true
      · rw [List.find?_cons_of_pos h1] at h
        cases h
        refine ⟨h1, 1, rfl, ?_⟩
        intro k' hk'
        have : k' = 0 := by omega
        subst this
        simpa using h0'
      · rw [List.find?_cons_of_neg h1] at h
        by_cases h2 : q (ptr + 2) = true
        · rw [List.find?_cons_of_pos h2] at h
          cases h
          refine ⟨h2, 2, rfl, ?_⟩
          intro k' hk'
          have : k' = 0 ∨ k' = 1 := by omega
          rcases this with rfl | rfl
          · simpa using h0'
          · simpa using h1
        · rw [List.find?_cons_of_neg h2] at h
          by_cases h3 : q (ptr + 3) = true
          · rw [List.find?_cons_of_pos h3] at h
            cases h
            refine ⟨h3, 3, rfl, ?_⟩
            intro k' hk'
            have : k' = 0 ∨ k' = 1 ∨ k' = 2 := by omega
            rcases this with rfl | rfl | rfl
            · simpa using h0'
            · simpa using h1
            · simpa using h2
          · rw [List.find?_cons_of_neg h3] at h
            simp at h
  · rintro ⟨hpo, k, rfl, hmin⟩
    have hk : k = 0 ∨ k = 1 ∨ k = 2 ∨ k = 3 := by omega
    rcases hk with rfl | rfl | rfl | rfl
    · simp at hpo
      simp [hpo]
    · have a0 := hmin 0 (by decide)
      simp at a0
      simp [a0, hpo]
    · have a0 := hmin 0 (by decide)
      have a1 := hmin 1 (by decide)
      simp at a0
      simp [a0, a1, hpo]
    · have a0 := hmin 0 (by decide)
      have a1 := hmin 1 (by decide)
      have a2 := hmin 2 (by decide)
      simp at a0
      simp [a0, a1, a2, hpo]

/-- Every originator is met by the round-robin search. -/
theorem exists_offset (ptr o : Originator) : ∃ k : Fin 4, o = ptr + k := ⟨o - ptr, (add_sub_cancel ptr o).symm⟩

theorem roundRobin_eq_none (ptr : Originator) (p : Originator → Bool) :
    roundRobin ptr p = none ↔ ∀ o, p o = false := by
  unfold roundRobin
  rw [List.find?_eq_none]
  constructor
  · intro h o
    obtain ⟨k, rfl⟩ := exists_offset ptr o
    have hk : k = 0 ∨ k = 1 ∨ k = 2 ∨ k = 3 := by omega
    rcases hk with rfl | rfl | rfl | rfl
    · simpa using h ptr (by simp)
    · simpa using h (ptr + 1) (by simp)
    · simpa using h (ptr + 2) (by simp)
    · simpa using h (ptr + 3) (by simp)
  · intro h x _
    simp [h x]

/-- A search from the back finds the place nearest the back that qualifies. -/
theorem find_reverse {α : Type} (l : List α) (p : α → Bool) (i : α) :
    l.reverse.find? p = some i ↔
      p i = true ∧ ∃ front back, l = front ++ i :: back ∧ ∀ j ∈ back, p j = false := by
  rw [List.find?_eq_some_iff_append]
  constructor
  · rintro ⟨hp, as, bs, h, hnot⟩
    refine ⟨hp, bs.reverse, as.reverse, ?_, ?_⟩
    · have := congrArg List.reverse h
      simpa using this
    · intro j hj
      simpa using hnot j (by simpa using hj)
  · rintro ⟨hp, front, back, rfl, hnot⟩
    refine ⟨hp, back.reverse, front.reverse, by simp, ?_⟩
    intro j hj
    simpa using hnot j (by simpa using hj)

/-! ## What the model's searches find -/

theorem Slot.isFree_iff (x : Slot) : x.isFree = true ↔ x = .free := by cases x <;> simp [Slot.isFree]

theorem Entry.isFree_iff (x : Entry) : x.isFree = true ↔ x = .free := by cases x <;> simp [Entry.isFree]

theorem FetchSlot.isIdle_iff (x : FetchSlot) : x.isIdle = true ↔ x = .idle := by cases x <;> simp [FetchSlot.isIdle]

theorem Entry.staleOf_iff (k : Key) (x : Entry) : x.staleOf k = true ↔ x = .stale k := by
  cases x <;> simp [Entry.staleOf, eq_comm]

theorem Slot.heldBy_iff (o : Originator) (x : Slot) : x.heldBy o = true ↔ ∃ a d st, x = .held a d st ∧ a.org = o := by
  cases x <;> simp [Slot.heldBy]

/-- The slot into which a request is admitted: the FREE slot with the lowest index (R42). -/
theorem State.lowestFree_eq_some (s : State) (i : SlotIx) :
    s.lowestFree = some i ↔ s.slot i = .free ∧ ∀ j < i, s.slot j ≠ .free := by
  simp only [State.lowestFree, find_allSlots, Slot.isFree_iff, Bool.eq_false_iff, ne_eq]

theorem State.lowestFree_eq_none (s : State) : s.lowestFree = none ↔ ∀ j, s.slot j ≠ .free := by
  simp only [State.lowestFree, find_allSlots_none, Slot.isFree_iff, Bool.eq_false_iff, ne_eq]

/-- A lookup that hits (R68). -/
theorem Cache.find_eq_some (c : Cache) (k : Key) (e : EntryIx) :
    c.find k = some e ↔ (c.entry e).answers k = true ∧ ∀ e' < e, (c.entry e').answers k = false := by
  simp only [Cache.find, find_allEntries]

theorem Cache.find_eq_none (c : Cache) (k : Key) : c.find k = none ↔ ∀ e, (c.entry e).answers k = false := by
  simp only [Cache.find, find_allEntries_none]

theorem Entry.answers_iff (k : Key) (x : Entry) : x.answers k = true ↔ x.key? = some k ∧ x.live = true := by
  simp [Entry.answers, and_comm]

theorem Cache.pinnedOf_eq_some (c : Cache) (k : Key) (e : EntryIx) :
    c.pinnedOf k = some e ↔ ((c.entry e).pinned = true ∧ (c.entry e).key? = some k) ∧
      ∀ e' < e, ¬ ((c.entry e').pinned = true ∧ (c.entry e').key? = some k) := by
  simp only [Cache.pinnedOf, find_allEntries, Bool.eq_false_iff, ne_eq, Bool.and_eq_true, decide_eq_true_eq]

theorem Cache.pinnedOf_eq_none (c : Cache) (k : Key) :
    c.pinnedOf k = none ↔ ∀ e, (c.entry e).pinned = true → (c.entry e).key? ≠ some k := by
  simp only [Cache.pinnedOf, find_allEntries_none, Bool.eq_false_iff, ne_eq, Bool.and_eq_true, decide_eq_true_eq,
    not_and]

/-- The entry that receives an install (R69): the STALE entry of the key, else the FREE entry with the lowest index, else
the entry nearest the back of the recency list that can be evicted. -/
theorem Cache.choose_eq_some (c : Cache) (k : Key) (e : EntryIx) :
    c.choose k = some e ↔
      (c.entry e = .stale k ∧ ∀ e' < e, c.entry e' ≠ .stale k) ∨
      ((∀ e', c.entry e' ≠ .stale k) ∧ c.entry e = .free ∧ ∀ e' < e, c.entry e' ≠ .free) ∨
      ((∀ e', c.entry e' ≠ .stale k) ∧ (∀ e', c.entry e' ≠ .free) ∧
        ∃ front back, c.recency = front ++ e :: back ∧ (c.entry e).evictable = true ∧
          ∀ e' ∈ back, (c.entry e').evictable = false) := by
  unfold Cache.choose
  split
  · rename_i i hi
    simp only [find_allEntries, Entry.staleOf_iff, Bool.eq_false_iff, ne_eq] at hi
    constructor
    · rintro h
      cases h
      exact .inl hi
    · rintro (h | ⟨h, _⟩ | ⟨h, _⟩)
      · rcases lt_trichotomy i e with hlt | rfl | hlt
        · exact absurd hi.1 (h.2 i hlt)
        · rfl
        · exact absurd h.1 (hi.2 e hlt)
      · exact absurd hi.1 (h i)
      · exact absurd hi.1 (h i)
  · rename_i hs
    simp only [find_allEntries_none, Entry.staleOf_iff, Bool.eq_false_iff, ne_eq] at hs
    split
    · rename_i i hi
      simp only [find_allEntries, Entry.isFree_iff, Bool.eq_false_iff, ne_eq] at hi
      constructor
      · rintro h
        cases h
        exact .inr (.inl ⟨hs, hi⟩)
      · rintro (h | h | h)
        · exact absurd h.1 (hs e)
        · rcases lt_trichotomy i e with hlt | rfl | hlt
          · exact absurd hi.1 (h.2.2 i hlt)
          · rfl
          · exact absurd h.2.1 (hi.2 e hlt)
        · exact absurd hi.1 (h.2.1 i)
    · rename_i hf
      simp only [find_allEntries_none, Entry.isFree_iff, Bool.eq_false_iff, ne_eq] at hf
      rw [find_reverse]
      constructor
      · rintro ⟨hp, front, back, h, hb⟩
        exact .inr (.inr ⟨hs, hf, front, back, h, hp, hb⟩)
      · rintro (h | h | ⟨_, _, front, back, h, hp, hb⟩)
        · exact absurd h.1 (hs e)
        · exact absurd h.2.1 (hf e)
        · exact ⟨hp, front, back, h, hb⟩

/-- No entry can receive an install of `k` when there is none that is STALE with it, FREE or evictable. -/
theorem Cache.choose_eq_none (c : Cache) (k : Key)
    (h : ∀ e, c.entry e ≠ .stale k ∧ c.entry e ≠ .free ∧ (c.entry e).evictable = false) : c.choose k = none := by
  rcases hc : c.choose k with _ | e
  · rfl
  · rw [Cache.choose_eq_some] at hc
    rcases hc with h' | h' | ⟨_, _, front, back, _, hp, _⟩
    · exact absurd h'.1 (h e).1
    · exact absurd h'.2.1 (h e).2.1
    · rw [(h e).2.2] at hp
      exact absurd hp (by simp)

/-- Where a miss goes (R87). -/
theorem FetchUnit.placeMiss_attach (u : FetchUnit) (k : Key) (w : Waiter) (f : FetchIx)
    (h : (u.slot f).key? = some k) (hmin : ∀ g < f, (u.slot g).key? ≠ some k) :
    u.placeMiss k w = u.setSlot f ((u.slot f).attach w) := by
  have : allFetchSlots.find? (fun i => decide ((u.slot i).key? = some k)) = some f := by
    simp only [find_allFetchSlots, decide_eq_true_eq, decide_eq_false_iff_not]
    exact ⟨h, hmin⟩
  simp only [FetchUnit.placeMiss, this]

theorem FetchUnit.placeMiss_begin (u : FetchUnit) (k : Key) (w : Waiter) (f : FetchIx)
    (hk : ∀ g, (u.slot g).key? ≠ some k) (h : u.slot f = .idle) (hmin : ∀ g < f, u.slot g ≠ .idle) :
    u.placeMiss k w = u.begin f k [w] := by
  have h1 : allFetchSlots.find? (fun i => decide ((u.slot i).key? = some k)) = none := by
    simp only [find_allFetchSlots_none, decide_eq_false_iff_not]
    exact hk
  have h2 : allFetchSlots.find? (fun i => (u.slot i).isIdle) = some f := by
    simp only [find_allFetchSlots, FetchSlot.isIdle_iff, Bool.eq_false_iff, ne_eq]
    exact ⟨h, hmin⟩
  simp only [FetchUnit.placeMiss, h1, h2]

theorem FetchUnit.placeMiss_wait (u : FetchUnit) (k : Key) (w : Waiter) (hk : ∀ g, (u.slot g).key? ≠ some k)
    (h : ∀ g, u.slot g ≠ .idle) :
    u.placeMiss k w = { u with waitList := u.waitList ++ [{ waiter := w, key := k }] } := by
  have h1 : allFetchSlots.find? (fun i => decide ((u.slot i).key? = some k)) = none := by
    simp only [find_allFetchSlots_none, decide_eq_false_iff_not]
    exact hk
  have h2 : allFetchSlots.find? (fun i => (u.slot i).isIdle) = none := by
    simp only [find_allFetchSlots_none, FetchSlot.isIdle_iff, Bool.eq_false_iff, ne_eq]
    exact h
  simp only [FetchUnit.placeMiss, h1, h2]

end Sys2Proof.Machine
end

