-- ==== Sys2Proof/Laws/State.lean ====
section
/-! SUPPORT. For each update of the state, each field after it: one lemma a field, true by definition. -/

namespace Sys2Proof.Machine

/-! ## setContext -/

@[simp] theorem State.setContext_resetActive (s : State) (o : Originator) (c : Context) :
    (s.setContext o c).resetActive = s.resetActive := rfl
@[simp] theorem State.setContext_mode (s : State) (o : Originator) (c : Context) :
    (s.setContext o c).mode = s.mode := rfl
@[simp] theorem State.setContext_sequence (s : State) (o : Originator) (c : Context) :
    (s.setContext o c).sequence = s.sequence := rfl
@[simp] theorem State.setContext_contexts (s : State) (o : Originator) (c : Context) :
    (s.setContext o c).contexts = poke s.contexts o c := rfl
@[simp] theorem State.setContext_waiting (s : State) (o : Originator) (c : Context) :
    (s.setContext o c).waiting = s.waiting := rfl
@[simp] theorem State.setContext_intake (s : State) (o : Originator) (c : Context) :
    (s.setContext o c).intake = s.intake := rfl
@[simp] theorem State.setContext_cache (s : State) (o : Originator) (c : Context) :
    (s.setContext o c).cache = s.cache := rfl
@[simp] theorem State.setContext_fetch (s : State) (o : Originator) (c : Context) :
    (s.setContext o c).fetch = s.fetch := rfl
@[simp] theorem State.setContext_port (s : State) (o : Originator) (c : Context) :
    (s.setContext o c).port = s.port := rfl
@[simp] theorem State.setContext_mem (s : State) (o : Originator) (c : Context) :
    (s.setContext o c).mem = s.mem := rfl
@[simp] theorem State.setContext_log (s : State) (o : Originator) (c : Context) :
    (s.setContext o c).log = s.log := rfl
@[simp] theorem State.setContext_engine (s : State) (o : Originator) (c : Context) :
    (s.setContext o c).engine = s.engine := rfl
@[simp] theorem State.setContext_freeCount (s : State) (o : Originator) (c : Context) :
    (s.setContext o c).freeCount = s.freeCount := rfl
@[simp] theorem State.setContext_pending (s : State) (o : Originator) (c : Context) :
    (s.setContext o c).pending = s.pending := rfl

/-! ## setSlot -/

@[simp] theorem State.setSlot_resetActive (s : State) (i : SlotIx) (x : Slot) :
    (s.setSlot i x).resetActive = s.resetActive := rfl
@[simp] theorem State.setSlot_mode (s : State) (i : SlotIx) (x : Slot) : (s.setSlot i x).mode = s.mode := rfl
@[simp] theorem State.setSlot_sequence (s : State) (i : SlotIx) (x : Slot) :
    (s.setSlot i x).sequence = s.sequence := rfl
@[simp] theorem State.setSlot_contexts (s : State) (i : SlotIx) (x : Slot) :
    (s.setSlot i x).contexts = s.contexts := rfl
@[simp] theorem State.setSlot_waiting (s : State) (i : SlotIx) (x : Slot) : (s.setSlot i x).waiting = s.waiting := rfl
@[simp] theorem State.setSlot_intake (s : State) (i : SlotIx) (x : Slot) :
    (s.setSlot i x).intake = { s.intake with slots := poke s.intake.slots i x } := rfl
@[simp] theorem State.setSlot_cache (s : State) (i : SlotIx) (x : Slot) : (s.setSlot i x).cache = s.cache := rfl
@[simp] theorem State.setSlot_fetch (s : State) (i : SlotIx) (x : Slot) : (s.setSlot i x).fetch = s.fetch := rfl
@[simp] theorem State.setSlot_port (s : State) (i : SlotIx) (x : Slot) : (s.setSlot i x).port = s.port := rfl
@[simp] theorem State.setSlot_mem (s : State) (i : SlotIx) (x : Slot) : (s.setSlot i x).mem = s.mem := rfl
@[simp] theorem State.setSlot_log (s : State) (i : SlotIx) (x : Slot) : (s.setSlot i x).log = s.log := rfl
@[simp] theorem State.setSlot_engine (s : State) (i : SlotIx) (x : Slot) : (s.setSlot i x).engine = s.engine := rfl
@[simp] theorem State.setSlot_freeCount (s : State) (i : SlotIx) (x : Slot) :
    (s.setSlot i x).freeCount = s.freeCount := rfl
@[simp] theorem State.setSlot_pending (s : State) (i : SlotIx) (x : Slot) : (s.setSlot i x).pending = s.pending := rfl

/-! ## setStage -/

@[simp] theorem State.setStage_resetActive (s : State) (i : SlotIx) (st : Stage) :
    (s.setStage i st).resetActive = s.resetActive := rfl
@[simp] theorem State.setStage_mode (s : State) (i : SlotIx) (st : Stage) : (s.setStage i st).mode = s.mode := rfl
@[simp] theorem State.setStage_sequence (s : State) (i : SlotIx) (st : Stage) :
    (s.setStage i st).sequence = s.sequence := rfl
@[simp] theorem State.setStage_contexts (s : State) (i : SlotIx) (st : Stage) :
    (s.setStage i st).contexts = s.contexts := rfl
@[simp] theorem State.setStage_waiting (s : State) (i : SlotIx) (st : Stage) :
    (s.setStage i st).waiting = s.waiting := rfl
@[simp] theorem State.setStage_intake (s : State) (i : SlotIx) (st : Stage) :
    (s.setStage i st).intake = { s.intake with slots := poke s.intake.slots i ((s.slot i).withStage st) } := rfl
@[simp] theorem State.setStage_cache (s : State) (i : SlotIx) (st : Stage) : (s.setStage i st).cache = s.cache := rfl
@[simp] theorem State.setStage_fetch (s : State) (i : SlotIx) (st : Stage) : (s.setStage i st).fetch = s.fetch := rfl
@[simp] theorem State.setStage_port (s : State) (i : SlotIx) (st : Stage) : (s.setStage i st).port = s.port := rfl
@[simp] theorem State.setStage_mem (s : State) (i : SlotIx) (st : Stage) : (s.setStage i st).mem = s.mem := rfl
@[simp] theorem State.setStage_log (s : State) (i : SlotIx) (st : Stage) : (s.setStage i st).log = s.log := rfl
@[simp] theorem State.setStage_engine (s : State) (i : SlotIx) (st : Stage) :
    (s.setStage i st).engine = s.engine := rfl
@[simp] theorem State.setStage_freeCount (s : State) (i : SlotIx) (st : Stage) :
    (s.setStage i st).freeCount = s.freeCount := rfl
@[simp] theorem State.setStage_pending (s : State) (i : SlotIx) (st : Stage) :
    (s.setStage i st).pending = s.pending := rfl

/-! ## finish -/

@[simp] theorem State.finish_resetActive (s : State) (r : ResultCode) (l : List Byte) :
    (s.finish r l).resetActive = s.resetActive := rfl
@[simp] theorem State.finish_mode (s : State) (r : ResultCode) (l : List Byte) : (s.finish r l).mode = s.mode := rfl
@[simp] theorem State.finish_sequence (s : State) (r : ResultCode) (l : List Byte) :
    (s.finish r l).sequence = s.sequence := rfl
@[simp] theorem State.finish_contexts (s : State) (r : ResultCode) (l : List Byte) :
    (s.finish r l).contexts = s.contexts := rfl
@[simp] theorem State.finish_waiting (s : State) (r : ResultCode) (l : List Byte) :
    (s.finish r l).waiting = s.waiting := rfl
@[simp] theorem State.finish_intake (s : State) (r : ResultCode) (l : List Byte) :
    (s.finish r l).intake = s.intake := rfl
@[simp] theorem State.finish_cache (s : State) (r : ResultCode) (l : List Byte) :
    (s.finish r l).cache = s.cache := rfl
@[simp] theorem State.finish_fetch (s : State) (r : ResultCode) (l : List Byte) :
    (s.finish r l).fetch = s.fetch := rfl
@[simp] theorem State.finish_port (s : State) (r : ResultCode) (l : List Byte) : (s.finish r l).port = s.port := rfl
@[simp] theorem State.finish_mem (s : State) (r : ResultCode) (l : List Byte) : (s.finish r l).mem = s.mem := rfl
@[simp] theorem State.finish_log (s : State) (r : ResultCode) (l : List Byte) : (s.finish r l).log = s.log := rfl
@[simp] theorem State.finish_engine (s : State) (r : ResultCode) (l : List Byte) :
    (s.finish r l).engine = { s.engine with phase := .complete r (resultBytes l) } := rfl
@[simp] theorem State.finish_freeCount (s : State) (r : ResultCode) (l : List Byte) :
    (s.finish r l).freeCount = s.freeCount := rfl
@[simp] theorem State.finish_pending (s : State) (r : ResultCode) (l : List Byte) :
    (s.finish r l).pending = s.pending := rfl

/-! ## execute -/

@[simp] theorem State.execute_resetActive (s : State) (c : LongCommand) :
    (s.execute c).resetActive = s.resetActive := rfl
@[simp] theorem State.execute_mode (s : State) (c : LongCommand) : (s.execute c).mode = s.mode := rfl
@[simp] theorem State.execute_sequence (s : State) (c : LongCommand) : (s.execute c).sequence = s.sequence := rfl
@[simp] theorem State.execute_contexts (s : State) (c : LongCommand) : (s.execute c).contexts = s.contexts := rfl
@[simp] theorem State.execute_waiting (s : State) (c : LongCommand) : (s.execute c).waiting = s.waiting := rfl
@[simp] theorem State.execute_intake (s : State) (c : LongCommand) : (s.execute c).intake = s.intake := rfl
@[simp] theorem State.execute_cache (s : State) (c : LongCommand) : (s.execute c).cache = s.cache := rfl
@[simp] theorem State.execute_fetch (s : State) (c : LongCommand) : (s.execute c).fetch = s.fetch := rfl
@[simp] theorem State.execute_port (s : State) (c : LongCommand) : (s.execute c).port = s.port := rfl
@[simp] theorem State.execute_mem (s : State) (c : LongCommand) : (s.execute c).mem = s.mem := rfl
@[simp] theorem State.execute_log (s : State) (c : LongCommand) : (s.execute c).log = s.log := rfl
@[simp] theorem State.execute_engine (s : State) (c : LongCommand) :
    (s.execute c).engine = { s.engine with phase := .executing c } := rfl
@[simp] theorem State.execute_freeCount (s : State) (c : LongCommand) : (s.execute c).freeCount = s.freeCount := rfl
@[simp] theorem State.execute_pending (s : State) (c : LongCommand) : (s.execute c).pending = s.pending := rfl

/-! ## offer -/

@[simp] theorem State.offer_resetActive (s : State) (f : FaultInfo) : (s.offer f).resetActive = s.resetActive := rfl
@[simp] theorem State.offer_mode (s : State) (f : FaultInfo) : (s.offer f).mode = s.mode := rfl
@[simp] theorem State.offer_sequence (s : State) (f : FaultInfo) : (s.offer f).sequence = s.sequence := rfl
@[simp] theorem State.offer_contexts (s : State) (f : FaultInfo) : (s.offer f).contexts = s.contexts := rfl
@[simp] theorem State.offer_waiting (s : State) (f : FaultInfo) : (s.offer f).waiting = s.waiting := rfl
@[simp] theorem State.offer_intake (s : State) (f : FaultInfo) : (s.offer f).intake = s.intake := rfl
@[simp] theorem State.offer_cache (s : State) (f : FaultInfo) : (s.offer f).cache = s.cache := rfl
@[simp] theorem State.offer_fetch (s : State) (f : FaultInfo) : (s.offer f).fetch = s.fetch := rfl
@[simp] theorem State.offer_port (s : State) (f : FaultInfo) : (s.offer f).port = s.port := rfl
@[simp] theorem State.offer_mem (s : State) (f : FaultInfo) : (s.offer f).mem = s.mem := rfl
@[simp] theorem State.offer_log (s : State) (f : FaultInfo) : (s.offer f).log = s.log.offer f := rfl
@[simp] theorem State.offer_engine (s : State) (f : FaultInfo) : (s.offer f).engine = s.engine := rfl
@[simp] theorem State.offer_freeCount (s : State) (f : FaultInfo) : (s.offer f).freeCount = s.freeCount := rfl
@[simp] theorem State.offer_pending (s : State) (f : FaultInfo) : (s.offer f).pending = s.pending := rfl

/-! ## setOriginator -/

@[simp] theorem State.setOriginator_resetActive (s : State) (o : Originator) (x : OriginatorState) :
    (s.setOriginator o x).resetActive = s.resetActive := rfl
@[simp] theorem State.setOriginator_mode (s : State) (o : Originator) (x : OriginatorState) :
    (s.setOriginator o x).mode = s.mode := rfl
@[simp] theorem State.setOriginator_sequence (s : State) (o : Originator) (x : OriginatorState) :
    (s.setOriginator o x).sequence = s.sequence := rfl
@[simp] theorem State.setOriginator_contexts (s : State) (o : Originator) (x : OriginatorState) :
    (s.setOriginator o x).contexts = poke s.contexts o { s.context o with state := x } := rfl
@[simp] theorem State.setOriginator_waiting (s : State) (o : Originator) (x : OriginatorState) :
    (s.setOriginator o x).waiting = s.waiting := rfl
@[simp] theorem State.setOriginator_intake (s : State) (o : Originator) (x : OriginatorState) :
    (s.setOriginator o x).intake = s.intake := rfl
@[simp] theorem State.setOriginator_cache (s : State) (o : Originator) (x : OriginatorState) :
    (s.setOriginator o x).cache = s.cache := rfl
@[simp] theorem State.setOriginator_fetch (s : State) (o : Originator) (x : OriginatorState) :
    (s.setOriginator o x).fetch = s.fetch := rfl
@[simp] theorem State.setOriginator_port (s : State) (o : Originator) (x : OriginatorState) :
    (s.setOriginator o x).port = s.port := rfl
@[simp] theorem State.setOriginator_mem (s : State) (o : Originator) (x : OriginatorState) :
    (s.setOriginator o x).mem = s.mem := rfl
@[simp] theorem State.setOriginator_log (s : State) (o : Originator) (x : OriginatorState) :
    (s.setOriginator o x).log = s.log := rfl
@[simp] theorem State.setOriginator_engine (s : State) (o : Originator) (x : OriginatorState) :
    (s.setOriginator o x).engine = s.engine := rfl
@[simp] theorem State.setOriginator_freeCount (s : State) (o : Originator) (x : OriginatorState) :
    (s.setOriginator o x).freeCount = s.freeCount := rfl
@[simp] theorem State.setOriginator_pending (s : State) (o : Originator) (x : OriginatorState) :
    (s.setOriginator o x).pending = s.pending := rfl

/-! ## acceptInto -/

@[simp] theorem State.acceptInto_resetActive (s : State) (i : SlotIx) (r : FrontRequest) :
    (s.acceptInto i r).resetActive = s.resetActive := rfl
@[simp] theorem State.acceptInto_mode (s : State) (i : SlotIx) (r : FrontRequest) :
    (s.acceptInto i r).mode = s.mode := rfl
@[simp] theorem State.acceptInto_sequence (s : State) (i : SlotIx) (r : FrontRequest) :
    (s.acceptInto i r).sequence = s.sequence := rfl
@[simp] theorem State.acceptInto_contexts (s : State) (i : SlotIx) (r : FrontRequest) :
    (s.acceptInto i r).contexts = s.contexts := rfl
@[simp] theorem State.acceptInto_waiting (s : State) (i : SlotIx) (r : FrontRequest) :
    (s.acceptInto i r).waiting = none := rfl
@[simp] theorem State.acceptInto_intake (s : State) (i : SlotIx) (r : FrontRequest) :
    (s.acceptInto i r).intake = { s.intake with
      slots := poke s.intake.slots i (.held (presentedAccess r) (keptData r) .queued)
      orders := poke s.intake.orders r.org (s.order r.org ++ [i]) } := rfl
@[simp] theorem State.acceptInto_cache (s : State) (i : SlotIx) (r : FrontRequest) :
    (s.acceptInto i r).cache = s.cache := rfl
@[simp] theorem State.acceptInto_fetch (s : State) (i : SlotIx) (r : FrontRequest) :
    (s.acceptInto i r).fetch = s.fetch := rfl
@[simp] theorem State.acceptInto_port (s : State) (i : SlotIx) (r : FrontRequest) :
    (s.acceptInto i r).port = s.port := rfl
@[simp] theorem State.acceptInto_mem (s : State) (i : SlotIx) (r : FrontRequest) :
    (s.acceptInto i r).mem = s.mem := rfl
@[simp] theorem State.acceptInto_log (s : State) (i : SlotIx) (r : FrontRequest) :
    (s.acceptInto i r).log = s.log := rfl
@[simp] theorem State.acceptInto_engine (s : State) (i : SlotIx) (r : FrontRequest) :
    (s.acceptInto i r).engine = s.engine := rfl
@[simp] theorem State.acceptInto_freeCount (s : State) (i : SlotIx) (r : FrontRequest) :
    (s.acceptInto i r).freeCount = s.freeCount := rfl
@[simp] theorem State.acceptInto_pending (s : State) (i : SlotIx) (r : FrontRequest) :
    (s.acceptInto i r).pending = s.pending := rfl

/-! ## vacate -/

@[simp] theorem State.vacate_resetActive (s : State) (i : SlotIx) (o : Originator) :
    (s.vacate i o).resetActive = s.resetActive := rfl
@[simp] theorem State.vacate_mode (s : State) (i : SlotIx) (o : Originator) : (s.vacate i o).mode = s.mode := rfl
@[simp] theorem State.vacate_sequence (s : State) (i : SlotIx) (o : Originator) :
    (s.vacate i o).sequence = s.sequence := rfl
@[simp] theorem State.vacate_contexts (s : State) (i : SlotIx) (o : Originator) :
    (s.vacate i o).contexts = s.contexts := rfl
@[simp] theorem State.vacate_waiting (s : State) (i : SlotIx) (o : Originator) :
    (s.vacate i o).waiting = s.waiting := rfl
@[simp] theorem State.vacate_intake (s : State) (i : SlotIx) (o : Originator) :
    (s.vacate i o).intake = { s.intake with
      slots := poke s.intake.slots i .free
      orders := poke s.intake.orders o ((s.order o).erase i)
      presented := none } := rfl
@[simp] theorem State.vacate_cache (s : State) (i : SlotIx) (o : Originator) : (s.vacate i o).cache = s.cache := rfl
@[simp] theorem State.vacate_fetch (s : State) (i : SlotIx) (o : Originator) : (s.vacate i o).fetch = s.fetch := rfl
@[simp] theorem State.vacate_port (s : State) (i : SlotIx) (o : Originator) : (s.vacate i o).port = s.port := rfl
@[simp] theorem State.vacate_mem (s : State) (i : SlotIx) (o : Originator) : (s.vacate i o).mem = s.mem := rfl
@[simp] theorem State.vacate_log (s : State) (i : SlotIx) (o : Originator) : (s.vacate i o).log = s.log := rfl
@[simp] theorem State.vacate_engine (s : State) (i : SlotIx) (o : Originator) :
    (s.vacate i o).engine = s.engine := rfl
@[simp] theorem State.vacate_freeCount (s : State) (i : SlotIx) (o : Originator) :
    (s.vacate i o).freeCount = s.freeCount := rfl
@[simp] theorem State.vacate_pending (s : State) (i : SlotIx) (o : Originator) :
    (s.vacate i o).pending = s.pending := rfl

/-! ## formReply -/

@[simp] theorem State.formReply_resetActive (s : State) : (s.formReply).resetActive = s.resetActive := rfl
@[simp] theorem State.formReply_mode (s : State) : (s.formReply).mode = s.mode := rfl
@[simp] theorem State.formReply_sequence (s : State) : (s.formReply).sequence = s.sequence := rfl
@[simp] theorem State.formReply_contexts (s : State) : (s.formReply).contexts = s.contexts := rfl
@[simp] theorem State.formReply_waiting (s : State) : (s.formReply).waiting = s.waiting := rfl
@[simp] theorem State.formReply_intake (s : State) : (s.formReply).intake = s.intake := rfl
@[simp] theorem State.formReply_cache (s : State) : (s.formReply).cache = s.cache := rfl
@[simp] theorem State.formReply_fetch (s : State) : (s.formReply).fetch = s.fetch := rfl
@[simp] theorem State.formReply_port (s : State) : (s.formReply).port = s.port := rfl
@[simp] theorem State.formReply_mem (s : State) : (s.formReply).mem = s.mem := rfl
@[simp] theorem State.formReply_log (s : State) : (s.formReply).log = s.log := rfl
@[simp] theorem State.formReply_engine (s : State) :
    (s.formReply).engine = { s.engine with rejectedBusy := false, link := .status s.statusReply } := rfl
@[simp] theorem State.formReply_freeCount (s : State) : (s.formReply).freeCount = s.freeCount := rfl
@[simp] theorem State.formReply_pending (s : State) : (s.formReply).pending = s.pending := rfl

/-! ## receive -/

@[simp] theorem State.receive_resetActive (s : State) (c : Byte) : (s.receive c).resetActive = s.resetActive := rfl
@[simp] theorem State.receive_mode (s : State) (c : Byte) : (s.receive c).mode = s.mode := rfl
@[simp] theorem State.receive_sequence (s : State) (c : Byte) : (s.receive c).sequence = s.sequence := rfl
@[simp] theorem State.receive_contexts (s : State) (c : Byte) : (s.receive c).contexts = s.contexts := rfl
@[simp] theorem State.receive_waiting (s : State) (c : Byte) : (s.receive c).waiting = s.waiting := rfl
@[simp] theorem State.receive_intake (s : State) (c : Byte) : (s.receive c).intake = s.intake := rfl
@[simp] theorem State.receive_cache (s : State) (c : Byte) : (s.receive c).cache = s.cache := rfl
@[simp] theorem State.receive_fetch (s : State) (c : Byte) : (s.receive c).fetch = s.fetch := rfl
@[simp] theorem State.receive_port (s : State) (c : Byte) : (s.receive c).port = s.port := rfl
@[simp] theorem State.receive_mem (s : State) (c : Byte) : (s.receive c).mem = s.mem := rfl
@[simp] theorem State.receive_log (s : State) (c : Byte) : (s.receive c).log = s.log := rfl
@[simp] theorem State.receive_engine (s : State) (c : Byte) :
    (s.receive c).engine = { s.engine with phase := .receiving c, link := .quiet } := rfl
@[simp] theorem State.receive_freeCount (s : State) (c : Byte) : (s.receive c).freeCount = s.freeCount := rfl
@[simp] theorem State.receive_pending (s : State) (c : Byte) : (s.receive c).pending = s.pending := rfl

/-! ## refuseBusy -/

@[simp] theorem State.refuseBusy_resetActive (s : State) (l : Link) :
    (s.refuseBusy l).resetActive = s.resetActive := rfl
@[simp] theorem State.refuseBusy_mode (s : State) (l : Link) : (s.refuseBusy l).mode = s.mode := rfl
@[simp] theorem State.refuseBusy_sequence (s : State) (l : Link) : (s.refuseBusy l).sequence = s.sequence := rfl
@[simp] theorem State.refuseBusy_contexts (s : State) (l : Link) : (s.refuseBusy l).contexts = s.contexts := rfl
@[simp] theorem State.refuseBusy_waiting (s : State) (l : Link) : (s.refuseBusy l).waiting = s.waiting := rfl
@[simp] theorem State.refuseBusy_intake (s : State) (l : Link) : (s.refuseBusy l).intake = s.intake := rfl
@[simp] theorem State.refuseBusy_cache (s : State) (l : Link) : (s.refuseBusy l).cache = s.cache := rfl
@[simp] theorem State.refuseBusy_fetch (s : State) (l : Link) : (s.refuseBusy l).fetch = s.fetch := rfl
@[simp] theorem State.refuseBusy_port (s : State) (l : Link) : (s.refuseBusy l).port = s.port := rfl
@[simp] theorem State.refuseBusy_mem (s : State) (l : Link) : (s.refuseBusy l).mem = s.mem := rfl
@[simp] theorem State.refuseBusy_log (s : State) (l : Link) : (s.refuseBusy l).log = s.log := rfl
@[simp] theorem State.refuseBusy_engine (s : State) (l : Link) :
    (s.refuseBusy l).engine = { s.engine with rejectedBusy := true, link := l } := rfl
@[simp] theorem State.refuseBusy_freeCount (s : State) (l : Link) : (s.refuseBusy l).freeCount = s.freeCount := rfl
@[simp] theorem State.refuseBusy_pending (s : State) (l : Link) : (s.refuseBusy l).pending = s.pending := rfl

/-! ## endIgnored -/

@[simp] theorem State.endIgnored_resetActive (s : State) : (s.endIgnored).resetActive = s.resetActive := rfl
@[simp] theorem State.endIgnored_mode (s : State) : (s.endIgnored).mode = s.mode := rfl
@[simp] theorem State.endIgnored_sequence (s : State) : (s.endIgnored).sequence = s.sequence := rfl
@[simp] theorem State.endIgnored_contexts (s : State) : (s.endIgnored).contexts = s.contexts := rfl
@[simp] theorem State.endIgnored_waiting (s : State) : (s.endIgnored).waiting = s.waiting := rfl
@[simp] theorem State.endIgnored_intake (s : State) : (s.endIgnored).intake = s.intake := rfl
@[simp] theorem State.endIgnored_cache (s : State) : (s.endIgnored).cache = s.cache := rfl
@[simp] theorem State.endIgnored_fetch (s : State) : (s.endIgnored).fetch = s.fetch := rfl
@[simp] theorem State.endIgnored_port (s : State) : (s.endIgnored).port = s.port := rfl
@[simp] theorem State.endIgnored_mem (s : State) : (s.endIgnored).mem = s.mem := rfl
@[simp] theorem State.endIgnored_log (s : State) : (s.endIgnored).log = s.log := rfl
@[simp] theorem State.endIgnored_engine (s : State) : (s.endIgnored).engine = { s.engine with link := .quiet } := rfl
@[simp] theorem State.endIgnored_freeCount (s : State) : (s.endIgnored).freeCount = s.freeCount := rfl
@[simp] theorem State.endIgnored_pending (s : State) : (s.endIgnored).pending = s.pending := rfl

/-! ## elapse -/

@[simp] theorem State.elapse_resetActive (s : State) (n : Nat) : (s.elapse n).resetActive = s.resetActive := rfl
@[simp] theorem State.elapse_mode (s : State) (n : Nat) : (s.elapse n).mode = s.mode := rfl
@[simp] theorem State.elapse_sequence (s : State) (n : Nat) : (s.elapse n).sequence = s.sequence := rfl
@[simp] theorem State.elapse_contexts (s : State) (n : Nat) : (s.elapse n).contexts = s.contexts := rfl
@[simp] theorem State.elapse_waiting (s : State) (n : Nat) : (s.elapse n).waiting = s.waiting := rfl
@[simp] theorem State.elapse_intake (s : State) (n : Nat) : (s.elapse n).intake = s.intake := rfl
@[simp] theorem State.elapse_cache (s : State) (n : Nat) : (s.elapse n).cache = s.cache := rfl
@[simp] theorem State.elapse_fetch (s : State) (n : Nat) : (s.elapse n).fetch = s.fetch := rfl
@[simp] theorem State.elapse_port (s : State) (n : Nat) : (s.elapse n).port = s.port.elapse n s.selected := rfl
@[simp] theorem State.elapse_mem (s : State) (n : Nat) : (s.elapse n).mem = s.mem := rfl
@[simp] theorem State.elapse_log (s : State) (n : Nat) : (s.elapse n).log = s.log := rfl
@[simp] theorem State.elapse_engine (s : State) (n : Nat) : (s.elapse n).engine = s.engine := rfl
@[simp] theorem State.elapse_freeCount (s : State) (n : Nat) : (s.elapse n).freeCount = s.freeCount := rfl
@[simp] theorem State.elapse_pending (s : State) (n : Nat) : (s.elapse n).pending = s.pending := rfl

/-! ## setPhase -/

@[simp] theorem State.setPhase_resetActive (s : State) (pr : Progress) (ph : BeatPhase) :
    (s.setPhase pr ph).resetActive = s.resetActive := rfl
@[simp] theorem State.setPhase_mode (s : State) (pr : Progress) (ph : BeatPhase) :
    (s.setPhase pr ph).mode = s.mode := rfl
@[simp] theorem State.setPhase_sequence (s : State) (pr : Progress) (ph : BeatPhase) :
    (s.setPhase pr ph).sequence = s.sequence := rfl
@[simp] theorem State.setPhase_contexts (s : State) (pr : Progress) (ph : BeatPhase) :
    (s.setPhase pr ph).contexts = s.contexts := rfl
@[simp] theorem State.setPhase_waiting (s : State) (pr : Progress) (ph : BeatPhase) :
    (s.setPhase pr ph).waiting = s.waiting := rfl
@[simp] theorem State.setPhase_intake (s : State) (pr : Progress) (ph : BeatPhase) :
    (s.setPhase pr ph).intake = s.intake := rfl
@[simp] theorem State.setPhase_cache (s : State) (pr : Progress) (ph : BeatPhase) :
    (s.setPhase pr ph).cache = s.cache := rfl
@[simp] theorem State.setPhase_fetch (s : State) (pr : Progress) (ph : BeatPhase) :
    (s.setPhase pr ph).fetch = s.fetch := rfl
@[simp] theorem State.setPhase_port (s : State) (pr : Progress) (ph : BeatPhase) :
    (s.setPhase pr ph).port = { s.port with current := some { pr with phase := ph } } := rfl
@[simp] theorem State.setPhase_mem (s : State) (pr : Progress) (ph : BeatPhase) :
    (s.setPhase pr ph).mem = s.mem := rfl
@[simp] theorem State.setPhase_log (s : State) (pr : Progress) (ph : BeatPhase) :
    (s.setPhase pr ph).log = s.log := rfl
@[simp] theorem State.setPhase_engine (s : State) (pr : Progress) (ph : BeatPhase) :
    (s.setPhase pr ph).engine = s.engine := rfl
@[simp] theorem State.setPhase_freeCount (s : State) (pr : Progress) (ph : BeatPhase) :
    (s.setPhase pr ph).freeCount = s.freeCount := rfl
@[simp] theorem State.setPhase_pending (s : State) (pr : Progress) (ph : BeatPhase) :
    (s.setPhase pr ph).pending = s.pending := rfl

/-! ## Reading one record after an update -/

@[simp] theorem State.setContext_context (s : State) (o o' : Originator) (c : Context) :
    (s.setContext o c).context o' = if o = o' then c else s.context o' := by
  simp [State.context]

@[simp] theorem State.setSlot_slot (s : State) (i j : SlotIx) (x : Slot) :
    (s.setSlot i x).slot j = if i = j then x else s.slot j := by
  simp [State.slot]

@[simp] theorem State.setSlot_order (s : State) (i : SlotIx) (x : Slot) (o : Originator) :
    (s.setSlot i x).order o = s.order o := rfl

@[simp] theorem State.setStage_slot (s : State) (i j : SlotIx) (st : Stage) :
    (s.setStage i st).slot j = if i = j then (s.slot i).withStage st else s.slot j := by
  simp [State.setStage]

@[simp] theorem State.setStage_order (s : State) (i : SlotIx) (st : Stage) (o : Originator) :
    (s.setStage i st).order o = s.order o := rfl

theorem State.setStage_of_held (s : State) (i : SlotIx) (a : Access) (d : Option Data) (st st' : Stage)
    (h : s.slot i = .held a d st) : s.setStage i st' = s.setSlot i (.held a d st') := by
  simp [State.setStage, h, Slot.withStage]

/-- What a slot of the state with other slots holds. -/
theorem State.slot_eq (s : State) (i : SlotIx) : s.slot i = peek s.intake.slots i := rfl

theorem State.context_eq (s : State) (o : Originator) : s.context o = peek s.contexts o := rfl

theorem State.order_eq (s : State) (o : Originator) : s.order o = peek s.intake.orders o := rfl

theorem resultBytes_nil : resultBytes [] = Vector.replicate 24 0 := by
  apply row_ext
  intro i
  simp [resultBytes]

end Sys2Proof.Machine
end

