-- ==== Sys2Proof/Laws/Phases.lean ====
section
/-! SUPPORT. Drains, the switch of ENGAGE and the phases of SOFT_RESET: what each of their operations does, once. -/

namespace Sys2Proof.Machine

theorem State.intakeEmpty_iff (s : State) : s.intakeEmpty = true ↔ ∀ i, s.slot i = .free := by
  simp [State.intakeEmpty, Slot.isFree_iff]

theorem State.bootDrained_iff (s : State) : s.bootDrained = true ↔ ∀ i, (s.slot i).pastResolution = false := by
  simp [State.bootDrained]

/-! ## The switch of ENGAGE (R159) -/

theorem State.checkEngaged_of_ne (s : State) (h : s.sequence ≠ .engaging) : s.checkEngaged = s := by
  simp [State.checkEngaged, h]

theorem State.checkEngaged_of_drained (s : State) (h : s.sequence = .engaging)
    (hd : ∀ i, (s.slot i).pastResolution = false) :
    s.checkEngaged = ({ s with mode := .run, sequence := .none }).finish .ok [] := by
  simp [State.checkEngaged, h, (s.bootDrained_iff).2 hd]

theorem State.checkEngaged_of_draining (s : State) (hd : ∃ i, (s.slot i).pastResolution = true) :
    s.checkEngaged = s := by
  unfold State.checkEngaged
  rw [if_neg]
  rintro ⟨_, h⟩
  obtain ⟨i, hi⟩ := hd
  rw [State.bootDrained_iff] at h
  rw [h i] at hi
  exact absurd hi (by simp)

/-! ## RESET_ANSWER (R163, R164) -/

theorem State.checkAnswered_of_ne (s : State) (h : s.sequence ≠ .resetAnswer) : s.checkAnswered = s := by
  simp [State.checkAnswered, h]

theorem State.checkAnswered_of_empty (s : State) (h : s.sequence = .resetAnswer) (he : ∀ i, s.slot i = .free) :
    s.checkAnswered = s.resetClear := by
  simp [State.checkAnswered, h, (s.intakeEmpty_iff).2 he]

theorem State.checkAnswered_of_held (s : State) (he : ∃ i, s.slot i ≠ .free) : s.checkAnswered = s := by
  unfold State.checkAnswered
  rw [if_neg]
  rintro ⟨_, h⟩
  obtain ⟨i, hi⟩ := he
  exact hi ((s.intakeEmpty_iff).1 h i)

/-! ## Drain sets (R29, R58) -/

/-- A command without a drain set is not affected by a departure. -/
def LongCommand.hasDrain : LongCommand → Bool
  | .suspend _ _ => true
  | .originatorOff _ _ => true
  | _ => false

theorem State.leaveDrain_of_other (s : State) (i : SlotIx)
    (h : ∀ c, s.engine.phase = .executing c → c.hasDrain = false) : s.leaveDrain i = s := by
  rcases s with ⟨ra, md, sq, cx, wt, ik, ca, fe, po, me, lg, ⟨ph, rb, lk⟩, fc, pe⟩
  rcases ph with _ | _ | c | _
  · rfl
  · rfl
  · have := h c rfl
    rcases c with _ | _ | _ | _ | _ | _
    · exact absurd this (by simp [LongCommand.hasDrain])
    · exact absurd this (by simp [LongCommand.hasDrain])
    all_goals rfl
  · rfl

theorem State.leaveDrain_of_suspend (s : State) (i : SlotIx) (o : Originator) (ds : List SlotIx)
    (h : s.engine.phase = .executing (.suspend o ds)) :
    s.leaveDrain i = if ds.erase i = [] then s.finish .ok [] else s.execute (.suspend o (ds.erase i)) := by
  simp only [State.leaveDrain, h, State.checkDrained, State.execute_engine, LongCommand.withoutSlot,
    LongCommand.drained, List.isEmpty_iff]
  rfl

theorem State.leaveDrain_of_originatorOff (s : State) (i : SlotIx) (o : Originator) (ds : List SlotIx)
    (h : s.engine.phase = .executing (.originatorOff o ds)) :
    s.leaveDrain i = if ds.erase i = [] then s.finish .ok [] else s.execute (.originatorOff o (ds.erase i)) := by
  simp only [State.leaveDrain, h, State.checkDrained, State.execute_engine, LongCommand.withoutSlot,
    LongCommand.drained, List.isEmpty_iff]
  rfl

/-- A departure changes the engine alone. -/
theorem State.leaveDrain_eq (s : State) (i : SlotIx) : s.leaveDrain i = { s with engine := (s.leaveDrain i).engine } := by
  rcases s with ⟨ra, md, sq, cx, wt, ik, ca, fe, po, me, lg, ⟨ph, rb, lk⟩, fc, pe⟩
  rcases ph with _ | _ | c | _
  · rfl
  · rfl
  · rcases c with ⟨o, ds⟩ | ⟨o, ds⟩ | _ | _ | _ | _
    · rw [State.leaveDrain_of_suspend _ _ o ds rfl]
      split <;> rfl
    · rw [State.leaveDrain_of_originatorOff _ _ o ds rfl]
      split <;> rfl
    all_goals rfl
  · rfl

@[simp] theorem State.vacate_slot (s : State) (i j : SlotIx) (o : Originator) :
    (s.vacate i o).slot j = if i = j then .free else s.slot j := by
  simp [State.slot]

@[simp] theorem State.vacate_order (s : State) (i : SlotIx) (o o' : Originator) :
    (s.vacate i o).order o' = if o = o' then (s.order o).erase i else s.order o' := by
  simp [State.order]

/-! ## The memory release (R61, R137, R162) -/

/-- The state that the memory release leaves before RESET_ANSWER looks at the intake. -/
def State.releaseStart (s : State) : State :=
  { s with
    port := { s.port with queue := [], discards := (s.port.queue.filter MemOp.isForwardWrite).length }
    fetch := .reset
    intake := { s.intake with slots := everyPlace Slot.refuseReset s.intake.slots }
    sequence := .resetAnswer }

theorem State.memoryRelease_eq (s : State) : s.memoryRelease = s.releaseStart.checkAnswered := rfl

@[simp] theorem State.releaseStart_slot (s : State) (i : SlotIx) :
    s.releaseStart.slot i = (s.slot i).refuseReset := by
  simp [State.slot, State.releaseStart]

@[simp] theorem State.releaseStart_order (s : State) (o : Originator) : s.releaseStart.order o = s.order o := rfl

theorem Slot.refuseReset_eq_free (x : Slot) : x.refuseReset = .free ↔ x = .free := by
  rcases x with _ | ⟨a, d, st⟩
  · simp [Slot.refuseReset]
  · cases st <;> simp [Slot.refuseReset]

theorem State.memoryRelease_of_held (s : State) (h : ∃ i, s.slot i ≠ .free) : s.memoryRelease = s.releaseStart := by
  rw [State.memoryRelease_eq]
  apply State.checkAnswered_of_held
  obtain ⟨i, hi⟩ := h
  exact ⟨i, by rw [State.releaseStart_slot, ne_eq, Slot.refuseReset_eq_free]; exact hi⟩

theorem State.memoryRelease_of_empty (s : State) (h : ∀ i, s.slot i = .free) :
    s.memoryRelease = s.releaseStart.resetClear := by
  rw [State.memoryRelease_eq]
  apply State.checkAnswered_of_empty _ rfl
  intro i
  rw [State.releaseStart_slot, h i]
  rfl

/-! ## After an operation -/

theorem State.afterOperation_of_run (s : State) (h : s.sequence ≠ .resetMemory) :
    s.afterOperation = { s with port := s.port.tryStart } := by
  simp [State.afterOperation, h]

theorem State.afterOperation_of_release (s : State) (h : s.sequence = .resetMemory) :
    s.afterOperation = s.memoryRelease := by
  simp [State.afterOperation, h]

end Sys2Proof.Machine
end

