-- ==== Sys2Proof/Laws/Refusal.lean ====
section
/-! SUPPORT. Refusals, steps 4 to 6 and wakes: what each changes, and what it leaves. -/

namespace Sys2Proof.Machine

/-! ## Counting (R35, R37) -/

theorem Context.counts_iff (c : Context) (mode : Mode) (cause : Cause) :
    c.counts mode cause = true ↔
      mode = .run ∧ cause.counted = true ∧ c.limit ≠ 0 ∧ (c.state = .active ∨ c.state = .suspended) := by
  simp [Context.counts, and_assoc]

theorem Cause.counted_iff (c : Cause) :
    c.counted = true ↔ c = .noWindow ∨ c = .notPresent ∨ c = .rights ∨ c = .limit ∨ c = .misaligned := by
  cases c <;> simp [Cause.counted]

/-- The records of a refusal (R37, R141). -/
def FaultLog.afterRefusal (l : FaultLog) (quarantined : Bool) (o : Originator) (limit : Byte) (f : FaultInfo) :
    FaultLog :=
  if quarantined = true then (l.offer f).offer (quarantineRecord o limit) else l.offer f

/-- A refusal changes one context, the log and one slot, and nothing else (R52). -/
theorem State.refuse_eq (s : State) (i : SlotIx) (a : Access) (cause : Cause) (stamp : Option Byte)
    (place : Option Place) (detail : Option Byte) :
    s.refuse i a cause stamp place detail =
      { s with
        contexts :=
          if (s.context a.org).counts s.mode cause = true then poke s.contexts a.org (s.context a.org).afterCounted
          else s.contexts
        log := s.log.afterRefusal (s.quarantines a.org cause) a.org (s.context a.org).limit
          (refusalRecord cause a stamp place detail)
        intake := { s.intake with
          slots := poke s.intake.slots i ((s.slot i).withStage (.answerReady none (.refused cause))) } } := by
  unfold State.refuse State.countRefusal State.logRefusal FaultLog.afterRefusal
  split <;> split <;> rfl

theorem State.refuse_of_uncounted (s : State) (i : SlotIx) (a : Access) (cause : Cause) (stamp : Option Byte)
    (place : Option Place) (detail : Option Byte) (h : (s.context a.org).counts s.mode cause = false) :
    s.refuse i a cause stamp place detail =
      { s with
        log := s.log.offer (refusalRecord cause a stamp place detail)
        intake := { s.intake with
          slots := poke s.intake.slots i ((s.slot i).withStage (.answerReady none (.refused cause))) } } := by
  rw [State.refuse_eq]
  simp [h, State.quarantines, FaultLog.afterRefusal]

theorem Context.afterCounted_below (c : Context) (h : (if c.count = c.limit then c.limit else c.count + 1) ≠ c.limit) :
    c.afterCounted = { c with count := c.count + 1 } := by
  by_cases h' : c.count = c.limit
  · rw [if_pos h'] at h
    exact absurd rfl h
  · rw [if_neg h'] at h
    simp only [Context.afterCounted, if_neg h', if_neg h]

theorem Context.afterCounted_limit (c : Context) (h : (if c.count = c.limit then c.limit else c.count + 1) = c.limit) :
    c.afterCounted = { c with count := c.limit, state := .quarantined } := by
  by_cases h' : c.count = c.limit
  · simp [Context.afterCounted, h']
  · rw [if_neg h'] at h
    simp only [Context.afterCounted, if_neg h', h, if_true]

section
variable (s : State) (i : SlotIx) (a : Access) (cause : Cause) (stamp : Option Byte) (place : Option Place)
  (detail : Option Byte)

@[simp] theorem State.refuse_resetActive : (s.refuse i a cause stamp place detail).resetActive = s.resetActive := by
  rw [State.refuse_eq]

@[simp] theorem State.refuse_mode : (s.refuse i a cause stamp place detail).mode = s.mode := by
  rw [State.refuse_eq]

@[simp] theorem State.refuse_sequence : (s.refuse i a cause stamp place detail).sequence = s.sequence := by
  rw [State.refuse_eq]

@[simp] theorem State.refuse_waiting : (s.refuse i a cause stamp place detail).waiting = s.waiting := by
  rw [State.refuse_eq]

@[simp] theorem State.refuse_intake : (s.refuse i a cause stamp place detail).intake =
    { s.intake with
      slots := poke s.intake.slots i ((s.slot i).withStage (.answerReady none (.refused cause))) } := by
  rw [State.refuse_eq]

@[simp] theorem State.refuse_cache : (s.refuse i a cause stamp place detail).cache = s.cache := by
  rw [State.refuse_eq]

@[simp] theorem State.refuse_fetch : (s.refuse i a cause stamp place detail).fetch = s.fetch := by
  rw [State.refuse_eq]

@[simp] theorem State.refuse_port : (s.refuse i a cause stamp place detail).port = s.port := by
  rw [State.refuse_eq]

@[simp] theorem State.refuse_mem : (s.refuse i a cause stamp place detail).mem = s.mem := by
  rw [State.refuse_eq]

@[simp] theorem State.refuse_engine : (s.refuse i a cause stamp place detail).engine = s.engine := by
  rw [State.refuse_eq]

@[simp] theorem State.refuse_freeCount : (s.refuse i a cause stamp place detail).freeCount = s.freeCount := by
  rw [State.refuse_eq]

@[simp] theorem State.refuse_pending : (s.refuse i a cause stamp place detail).pending = s.pending := by
  rw [State.refuse_eq]

theorem State.refuse_contexts : (s.refuse i a cause stamp place detail).contexts =
    if (s.context a.org).counts s.mode cause = true then poke s.contexts a.org (s.context a.org).afterCounted
    else s.contexts := by
  rw [State.refuse_eq]

theorem State.refuse_log : (s.refuse i a cause stamp place detail).log =
    s.log.afterRefusal (s.quarantines a.org cause) a.org (s.context a.org).limit
      (refusalRecord cause a stamp place detail) := by
  rw [State.refuse_eq]

@[simp] theorem State.refuse_slot (j : SlotIx) : (s.refuse i a cause stamp place detail).slot j =
    if i = j then (s.slot i).withStage (.answerReady none (.refused cause)) else s.slot j := by
  simp [State.slot]

@[simp] theorem State.refuse_order (o : Originator) : (s.refuse i a cause stamp place detail).order o = s.order o := by
  simp [State.order]

end

/-! ## Steps 4 to 6 -/

theorem State.resolveAgainst_pass (s : State) (i : SlotIx) (a : Access) (e : EntryIx) (d : Descriptor) (t : Translation)
    (h : d.evaluate a = .pass t) :
    s.resolveAgainst i a e d = { s.setStage i (.resolved t) with cache := s.cache.raiseMarks e a.kind } := by
  simp [State.resolveAgainst, h]

theorem State.resolveAgainst_fail (s : State) (i : SlotIx) (a : Access) (e : EntryIx) (d : Descriptor) (c : Cause)
    (h : d.evaluate a = .fail c) : s.resolveAgainst i a e d = s.refuse i a c (some d.stamp) none none := by
  simp [State.resolveAgainst, h]

/-- A decision by steps 4 to 6 fails with RIGHTS, MISALIGNED or LIMIT (R18). -/
theorem Descriptor.evaluate_fail (d : Descriptor) (a : Access) (c : Cause) (h : d.evaluate a = .fail c) :
    c = .rights ∨ c = .misaligned ∨ c = .limit := by
  unfold Descriptor.evaluate at h
  split at h
  · cases h
    exact .inl rfl
  · split at h
    · cases h
      exact .inr (.inl rfl)
    · split at h
      · cases h
        exact .inr (.inr rfl)
      · cases h

/-! ## What a wake leaves as it is (R51, R99, R100) -/

/-- `u` agrees with `s` wherever a wake changes nothing: a wake changes contexts, slots, pending marks with the asking
order, the log and the engine. -/
structure WakeFrame (s u : State) : Prop where
  resetActive : u.resetActive = s.resetActive
  mode : u.mode = s.mode
  sequence : u.sequence = s.sequence
  waiting : u.waiting = s.waiting
  orders : u.intake.orders = s.intake.orders
  turnPtr : u.intake.turnPtr = s.intake.turnPtr
  responsePtr : u.intake.responsePtr = s.intake.responsePtr
  presented : u.intake.presented = s.intake.presented
  recency : u.cache.recency = s.cache.recency
  fetch : u.fetch = s.fetch
  port : u.port = s.port
  mem : u.mem = s.mem
  freeCount : u.freeCount = s.freeCount
  pending : u.pending = s.pending

theorem WakeFrame.rfl (s : State) : WakeFrame s s := by
  constructor <;> exact Eq.refl _

theorem WakeFrame.trans {s t u : State} (h : WakeFrame s t) (h' : WakeFrame t u) : WakeFrame s u where
  resetActive := h'.resetActive.trans h.resetActive
  mode := h'.mode.trans h.mode
  sequence := h'.sequence.trans h.sequence
  waiting := h'.waiting.trans h.waiting
  orders := h'.orders.trans h.orders
  turnPtr := h'.turnPtr.trans h.turnPtr
  responsePtr := h'.responsePtr.trans h.responsePtr
  presented := h'.presented.trans h.presented
  recency := h'.recency.trans h.recency
  fetch := h'.fetch.trans h.fetch
  port := h'.port.trans h.port
  mem := h'.mem.trans h.mem
  freeCount := h'.freeCount.trans h.freeCount
  pending := h'.pending.trans h.pending

theorem State.refuse_wakeFrame (s : State) (i : SlotIx) (a : Access) (cause : Cause) (stamp : Option Byte)
    (place : Option Place) (detail : Option Byte) : WakeFrame s (s.refuse i a cause stamp place detail) := by
  constructor <;> simp

theorem State.resolveAgainst_wakeFrame (s : State) (i : SlotIx) (a : Access) (e : EntryIx) (d : Descriptor) :
    WakeFrame s (s.resolveAgainst i a e d) := by
  rcases h : d.evaluate a with t | c
  · rw [State.resolveAgainst_pass s i a e d t h]
    constructor <;> rfl
  · rw [State.resolveAgainst_fail s i a e d c h]
    exact s.refuse_wakeFrame ..

theorem State.wakeRequest_wakeFrame (s : State) (i : SlotIx) (o : FetchOutcome) : WakeFrame s (s.wakeRequest i o) := by
  unfold State.wakeRequest
  split
  · split
    · exact s.resolveAgainst_wakeFrame ..
    all_goals exact s.refuse_wakeFrame ..
  · exact WakeFrame.rfl s

theorem State.wakeCommand_eq (s : State) (k : Key) (o : FetchOutcome) :
    s.wakeCommand k o = { s with engine := (s.wakeCommand k o).engine } := by
  unfold State.wakeCommand
  split
  · split <;> rfl
  · split <;> rfl
  · rfl

theorem State.wakeCommand_wakeFrame (s : State) (k : Key) (o : FetchOutcome) : WakeFrame s (s.wakeCommand k o) := by
  rw [State.wakeCommand_eq]
  constructor <;> rfl

theorem State.wake_wakeFrame (s : State) (k : Key) (o : FetchOutcome) (w : Waiter) : WakeFrame s (s.wake k o w) := by
  cases w with
  | request i => exact s.wakeRequest_wakeFrame i o
  | command => exact s.wakeCommand_wakeFrame k o

theorem State.wakeAll_wakeFrame (s : State) (k : Key) (o : FetchOutcome) (ws : List Waiter) :
    WakeFrame s (ws.foldl (fun s w => s.wake k o w) s) := by
  induction ws generalizing s with
  | nil => exact WakeFrame.rfl s
  | cons w ws ih => exact (s.wake_wakeFrame k o w).trans (ih _)

/-! ## The end of a fetch -/

/-- The state after every waiter has been woken. -/
def State.wakeAll (s : State) (k : Key) (o : FetchOutcome) (ws : List Waiter) : State :=
  ws.foldl (fun s w => s.wake k o w) s

theorem State.endFetch_eq (s : State) (i : FetchIx) (k : Key) (ws : List Waiter) (o : FetchOutcome) :
    s.endFetch i k ws o = { s.wakeAll k o ws with fetch := s.fetch.release i } := by
  unfold State.endFetch State.wakeAll
  simp only
  rw [(s.wakeAll_wakeFrame k o ws).fetch]

/-! ## A wake does not look at the fetch unit or the memory port -/

theorem State.refuse_elsewhere (s : State) (u : FetchUnit) (p : Port) (m : List Host.Cell)
    (i : SlotIx) (a : Access) (cause : Cause)
    (stamp : Option Byte) (place : Option Place) (detail : Option Byte) :
    State.refuse { s with fetch := u, port := p, mem := m } i a cause stamp place detail =
      { s.refuse i a cause stamp place detail with fetch := u, port := p, mem := m } := by
  rw [State.refuse_eq, State.refuse_eq]
  rfl

theorem State.wake_elsewhere (s : State) (u : FetchUnit) (p : Port) (m : List Host.Cell)
    (k : Key) (o : FetchOutcome) (w : Waiter) :
    State.wake { s with fetch := u, port := p, mem := m } k o w =
      { s.wake k o w with fetch := u, port := p, mem := m } := by
  cases w with
  | request i =>
    have hslot : State.slot { s with fetch := u, port := p, mem := m } i = s.slot i := rfl
    simp only [State.wake, State.wakeRequest, hslot]
    split
    · split
      · rename_i e d _
        simp only [State.resolveAgainst]
        split
        · rfl
        · exact State.refuse_elsewhere ..
      all_goals exact State.refuse_elsewhere ..
    · rfl
  | command =>
    simp only [State.wake, State.wakeCommand]
    split
    · split <;> rfl
    · split <;> rfl
    · rfl

/-- The wakes of a fetch with other contents of the fetch unit, the memory port and memory. -/
theorem State.wakeAll_elsewhere (s : State) (u : FetchUnit) (p : Port) (m : List Host.Cell) (k : Key) (o : FetchOutcome)
    (ws : List Waiter) :
    State.wakeAll { s with fetch := u, port := p, mem := m } k o ws =
      { s.wakeAll k o ws with fetch := u, port := p, mem := m } := by
  unfold State.wakeAll
  induction ws generalizing s with
  | nil => rfl
  | cons w ws ih => rw [List.foldl_cons, State.wake_elsewhere, ih, List.foldl_cons]

end Sys2Proof.Machine
end

