-- ==== Sys2Proof/Laws/Invalidate.lean ====
section
/-! SUPPORT. Voided installs and invalidation: what they change, and what they leave. -/

namespace Sys2Proof.Machine

/-! ## A wake that refuses TABLE_UNSTABLE (R95) -/

theorem State.refuse_unstable (s : State) (i : SlotIx) (a : Access) (detail : Option Byte) :
    s.refuse i a .tableUnstable none none detail =
      { s with
        log := s.log.offer (refusalRecord .tableUnstable a none none detail)
        intake := { s.intake with
          slots := poke s.intake.slots i ((s.slot i).withStage (.answerReady none (.refused .tableUnstable))) } } :=
  s.refuse_of_uncounted i a .tableUnstable none none detail (by simp [Context.counts, Cause.counted])

theorem State.wake_unstable_contexts (s : State) (k : Key) (w : Waiter) :
    (s.wake k .unstable w).contexts = s.contexts := by
  cases w with
  | request i =>
    simp only [State.wake, State.wakeRequest]
    split
    · rw [State.refuse_unstable]
    · rfl
  | command =>
    simp only [State.wake]
    rw [State.wakeCommand_eq]

theorem State.wake_unstable_cache (s : State) (k : Key) (w : Waiter) : (s.wake k .unstable w).cache = s.cache := by
  cases w with
  | request i =>
    simp only [State.wake, State.wakeRequest]
    split
    · rw [State.refuse_unstable]
    · rfl
  | command =>
    simp only [State.wake]
    rw [State.wakeCommand_eq]

/-- A wake that refuses TABLE_UNSTABLE leaves every slot that is not in WAIT_FETCH. -/
theorem State.wake_unstable_slot (s : State) (k : Key) (w : Waiter) (i : SlotIx)
    (h : ∀ a d, s.slot i ≠ .held a d .waitFetch) : (s.wake k .unstable w).slot i = s.slot i := by
  cases w with
  | request j =>
    simp only [State.wake, State.wakeRequest]
    split
    · rename_i a d hj
      have hne : j ≠ i := by
        rintro rfl
        exact h a d hj
      simp [hne]
    · rfl
  | command =>
    simp only [State.wake]
    rw [State.wakeCommand_eq]
    rfl

/-- What a fetch that ends TABLE_UNSTABLE leaves as it is, beside what every wake leaves. -/
theorem State.wakeAll_unstable (s : State) (k : Key) (ws : List Waiter) :
    (s.wakeAll k .unstable ws).contexts = s.contexts ∧ (s.wakeAll k .unstable ws).cache = s.cache ∧
      ∀ i, (∀ a d, s.slot i ≠ .held a d .waitFetch) → (s.wakeAll k .unstable ws).slot i = s.slot i := by
  induction ws generalizing s with
  | nil => exact ⟨rfl, rfl, fun _ _ => rfl⟩
  | cons w ws ih =>
    have ih := ih (s.wake k .unstable w)
    refine ⟨ih.1.trans (s.wake_unstable_contexts k w), ih.2.1.trans (s.wake_unstable_cache k w), ?_⟩
    intro i hi
    have h := s.wake_unstable_slot k w i hi
    have := ih.2.2 i (by rw [h]; exact hi)
    exact this.trans h

/-! ## A voided install (R72, R97) -/

/-- `u` agrees with `s` wherever a voided install changes nothing: it changes the fetch unit, and, when its reads are used
up, slots in WAIT_FETCH, the log and the engine. -/
structure VoidFrame (s u : State) : Prop where
  resetActive : u.resetActive = s.resetActive
  mode : u.mode = s.mode
  sequence : u.sequence = s.sequence
  contexts : u.contexts = s.contexts
  waiting : u.waiting = s.waiting
  orders : u.intake.orders = s.intake.orders
  turnPtr : u.intake.turnPtr = s.intake.turnPtr
  responsePtr : u.intake.responsePtr = s.intake.responsePtr
  presented : u.intake.presented = s.intake.presented
  slot : ∀ i, (∀ a d, s.slot i ≠ .held a d .waitFetch) → u.slot i = s.slot i
  cache : u.cache = s.cache
  port : u.port = s.port
  mem : u.mem = s.mem
  freeCount : u.freeCount = s.freeCount
  pending : u.pending = s.pending

theorem VoidFrame.rfl (s : State) : VoidFrame s s := by
  constructor
  case slot => exact fun _ _ => Eq.refl _
  all_goals exact Eq.refl _

theorem VoidFrame.trans {s t u : State} (h : VoidFrame s t) (h' : VoidFrame t u) : VoidFrame s u where
  resetActive := h'.resetActive.trans h.resetActive
  mode := h'.mode.trans h.mode
  sequence := h'.sequence.trans h.sequence
  contexts := h'.contexts.trans h.contexts
  waiting := h'.waiting.trans h.waiting
  orders := h'.orders.trans h.orders
  turnPtr := h'.turnPtr.trans h.turnPtr
  responsePtr := h'.responsePtr.trans h.responsePtr
  presented := h'.presented.trans h.presented
  slot := fun i hi => (h'.slot i (by rw [h.slot i hi]; exact hi)).trans (h.slot i hi)
  cache := h'.cache.trans h.cache
  port := h'.port.trans h.port
  mem := h'.mem.trans h.mem
  freeCount := h'.freeCount.trans h.freeCount
  pending := h'.pending.trans h.pending

/-- A change of the fetch unit alone. -/
theorem VoidFrame.fetch (s : State) (u : FetchUnit) : VoidFrame s { s with fetch := u } := by
  constructor
  case slot => exact fun _ _ => Eq.refl _
  all_goals exact Eq.refl _

theorem State.endFetch_unstable_voidFrame (s : State) (i : FetchIx) (k : Key) (ws : List Waiter) :
    VoidFrame s (s.endFetch i k ws .unstable) := by
  rw [State.endFetch_eq]
  have hw := s.wakeAll_wakeFrame k .unstable ws
  have hu := s.wakeAll_unstable k ws
  constructor
  case contexts => exact hu.1
  case cache => exact hu.2.1
  case slot => exact fun i hi => hu.2.2 i hi
  case resetActive => exact hw.resetActive
  case mode => exact hw.mode
  case sequence => exact hw.sequence
  case waiting => exact hw.waiting
  case orders => exact hw.orders
  case turnPtr => exact hw.turnPtr
  case responsePtr => exact hw.responsePtr
  case presented => exact hw.presented
  case port => exact hw.port
  case mem => exact hw.mem
  case freeCount => exact hw.freeCount
  case pending => exact hw.pending

theorem State.reissueOrFail_of_left (s : State) (i : FetchIx) (k : Key) (ws : List Waiter) (n : Nat) (h : n < maxReads) :
    s.reissueOrFail i k ws n = { s with fetch := s.fetch.reissue i k ws n } := by
  simp [State.reissueOrFail, h]

theorem State.reissueOrFail_of_used (s : State) (i : FetchIx) (k : Key) (ws : List Waiter) (n : Nat)
    (h : maxReads ≤ n) : s.reissueOrFail i k ws n = s.endFetch i k ws .unstable := by
  simp [State.reissueOrFail, Nat.not_lt.mpr h]

theorem State.reissueOrFail_voidFrame (s : State) (i : FetchIx) (k : Key) (ws : List Waiter) (n : Nat) :
    VoidFrame s (s.reissueOrFail i k ws n) := by
  by_cases h : n < maxReads
  · rw [State.reissueOrFail_of_left _ _ _ _ _ h]
    exact VoidFrame.fetch s _
  · rw [State.reissueOrFail_of_used _ _ _ _ _ (Nat.not_lt.mp h)]
    exact s.endFetch_unstable_voidFrame i k ws

theorem State.voidInstall_voidFrame (s : State) (i : FetchIx) : VoidFrame s (s.voidInstall i) := by
  unfold State.voidInstall
  split
  · exact (VoidFrame.fetch s _).trans (State.reissueOrFail_voidFrame _ _ _ _ _)
  · exact VoidFrame.rfl s

theorem State.voidInstalls_voidFrame (s : State) (l : List FetchIx) : VoidFrame s (l.foldl State.voidInstall s) := by
  induction l generalizing s with
  | nil => exact VoidFrame.rfl s
  | cons i l ih => exact (s.voidInstall_voidFrame i).trans (ih _)

/-! ## Invalidation (R73, R92, R105) -/

/-- The state in which an invalidation has reached entries and reads, before it voids the waiting installs. -/
def State.invalidateStart (s : State) (cov : Coverage) : State :=
  { s with
    cache := s.cache.invalidate (s.coversEntry cov)
    fetch := s.fetch.overtake (s.coversFetch cov) }

/-- The waiting installs that an invalidation voids, the older first (R72). -/
def State.voided (s : State) (cov : Coverage) : List FetchIx :=
  s.fetch.installs.filter fun i => s.coversInstall cov (s.fetch.slot i)

theorem State.invalidate_eq (s : State) (cov : Coverage) :
    s.invalidate cov = (s.voided cov).foldl State.voidInstall (s.invalidateStart cov) := rfl

/-- What an invalidation changes and leaves: entries, recency list and asking order are those of the cache's own
invalidation; contexts, order lists, pointers, port and memory stay. -/
theorem State.invalidate_voidFrame (s : State) (cov : Coverage) :
    VoidFrame (s.invalidateStart cov) (s.invalidate cov) := by
  rw [State.invalidate_eq]
  exact State.voidInstalls_voidFrame _ _

section
variable (s : State) (cov : Coverage)

@[simp] theorem State.invalidate_resetActive : (s.invalidate cov).resetActive = s.resetActive :=
  (s.invalidate_voidFrame cov).resetActive

@[simp] theorem State.invalidate_mode : (s.invalidate cov).mode = s.mode := (s.invalidate_voidFrame cov).mode

@[simp] theorem State.invalidate_sequence : (s.invalidate cov).sequence = s.sequence :=
  (s.invalidate_voidFrame cov).sequence

@[simp] theorem State.invalidate_contexts : (s.invalidate cov).contexts = s.contexts :=
  (s.invalidate_voidFrame cov).contexts

@[simp] theorem State.invalidate_waiting : (s.invalidate cov).waiting = s.waiting :=
  (s.invalidate_voidFrame cov).waiting

@[simp] theorem State.invalidate_orders : (s.invalidate cov).intake.orders = s.intake.orders :=
  (s.invalidate_voidFrame cov).orders

@[simp] theorem State.invalidate_turnPtr : (s.invalidate cov).intake.turnPtr = s.intake.turnPtr :=
  (s.invalidate_voidFrame cov).turnPtr

@[simp] theorem State.invalidate_responsePtr : (s.invalidate cov).intake.responsePtr = s.intake.responsePtr :=
  (s.invalidate_voidFrame cov).responsePtr

@[simp] theorem State.invalidate_presented : (s.invalidate cov).intake.presented = s.intake.presented :=
  (s.invalidate_voidFrame cov).presented

@[simp] theorem State.invalidate_cache : (s.invalidate cov).cache = s.cache.invalidate (s.coversEntry cov) :=
  (s.invalidate_voidFrame cov).cache

@[simp] theorem State.invalidate_port : (s.invalidate cov).port = s.port := (s.invalidate_voidFrame cov).port

@[simp] theorem State.invalidate_mem : (s.invalidate cov).mem = s.mem := (s.invalidate_voidFrame cov).mem

@[simp] theorem State.invalidate_freeCount : (s.invalidate cov).freeCount = s.freeCount :=
  (s.invalidate_voidFrame cov).freeCount

@[simp] theorem State.invalidate_pending : (s.invalidate cov).pending = s.pending :=
  (s.invalidate_voidFrame cov).pending

/-- A slot that is not in WAIT_FETCH stays (R20: a translation is not examined again). -/
theorem State.invalidate_slot (i : SlotIx) (h : ∀ a d, s.slot i ≠ .held a d .waitFetch) :
    (s.invalidate cov).slot i = s.slot i := (s.invalidate_voidFrame cov).slot i h

end

theorem Cache.invalidate_entry (c : Cache) (covered : Entry → Bool) (e : EntryIx) :
    (c.invalidate covered).entry e = if covered (c.entry e) = true then (c.entry e).invalidated else c.entry e := by
  exact peek_everyPlace (fun x => if covered x = true then x.invalidated else x) c.entries e

theorem FetchUnit.overtake_slot (u : FetchUnit) (p : Key → Bool) (f : FetchIx) :
    (u.overtake p).slot f = (u.slot f).overtake p := by
  simp [FetchUnit.overtake, FetchUnit.slot]

/-! ## An invalidation none of whose voided installs has used up its reads -/

/-- A voided install with reads left asks for a new read; nothing else of the state changes. -/
theorem State.voidInstall_of_left (s : State) (f : FetchIx) (k : Key) (ws : List Waiter) (n : Nat) (p : Place) (h : Held)
    (hf : s.fetch.slot f = .installing k ws n p h) (hn : n < maxReads) :
    s.voidInstall f = { s with
      fetch := { s.fetch with
        slots := poke s.fetch.slots f (.reading k ws false (n + 1) .asking)
        asks := s.fetch.asks ++ [f]
        installs := s.fetch.installs.erase f } } := by
  simp only [State.voidInstall, hf]
  rw [State.reissueOrFail_of_left _ _ _ _ _ hn]
  rfl

/-- The slots of a list of voided installs, each with reads left: each asks for a new read, and the others stay. -/
theorem State.voidInstalls_of_left (l : List FetchIx) (hl : l.Nodup) (s : State)
    (h : ∀ f ∈ l, ∃ k ws n p x, s.fetch.slot f = .installing k ws n p x ∧ n < maxReads) :
    ∃ u : FetchUnit, l.foldl State.voidInstall s = { s with fetch := u } ∧
      (∀ f, f ∉ l → u.slot f = s.fetch.slot f) ∧
      (∀ f ∈ l, ∀ k ws n p x, s.fetch.slot f = .installing k ws n p x →
        u.slot f = .reading k ws false (n + 1) .asking) ∧
      u.waitList = s.fetch.waitList ∧ u.asks = s.fetch.asks ++ l ∧
      u.installs = l.foldl List.erase s.fetch.installs := by
  induction l generalizing s with
  | nil => exact ⟨s.fetch, rfl, fun _ _ => rfl, by simp, rfl, by simp, rfl⟩
  | cons f l ih =>
    rw [List.nodup_cons] at hl
    obtain ⟨k, ws, n, p, x, hf, hn⟩ := h f (by simp)
    have hs := s.voidInstall_of_left f k ws n p x hf hn
    have hslot : ∀ g, g ≠ f → (s.voidInstall f).fetch.slot g = s.fetch.slot g := by
      intro g hg
      rw [hs]
      simp [FetchUnit.slot, Ne.symm hg]
    have hself : (s.voidInstall f).fetch.slot f = .reading k ws false (n + 1) .asking := by
      rw [hs]
      simp [FetchUnit.slot]
    obtain ⟨u, hu, h1, h2, h3, h4, h5⟩ := ih hl.2 (s.voidInstall f) (by
      intro g hg
      have hne : g ≠ f := fun e => hl.1 (e ▸ hg)
      obtain ⟨k', ws', n', p', x', hg', hn'⟩ := h g (by simp [hg])
      exact ⟨k', ws', n', p', x', by rw [hslot g hne]; exact hg', hn'⟩)
    refine ⟨u, ?_, ?_, ?_, ?_, ?_, ?_⟩
    · rw [List.foldl_cons, hu, hs]
    · intro g hg
      simp only [List.mem_cons, not_or] at hg
      rw [h1 g hg.2, hslot g hg.1]
    · intro g hg k' ws' n' p' x' hg'
      rcases List.mem_cons.mp hg with rfl | hg
      · rw [h1 _ hl.1, hself]
        rw [hf] at hg'
        cases hg'
        rfl
      · have hne : g ≠ f := fun e => hl.1 (e ▸ hg)
        exact h2 g hg k' ws' n' p' x' (by rw [hslot g hne]; exact hg')
    · rw [h3, hs]
    · rw [h4, hs]
      simp
    · rw [h5, hs]
      rfl

end Sys2Proof.Machine
end

