-- ==== Sys2Proof/Laws/Cache.lean ====
section
/-! SUPPORT. The descriptor cache: every operation keeps the recency list and the asking order true of the entries. -/

namespace Sys2Proof.Machine

theorem Cache.reset_ok : Cache.reset.Ok := by
  refine ⟨List.nodup_nil, ?_, List.nodup_nil, ?_⟩
  · intro i
    simp [Cache.reset, Cache.entry, Entry.isFree]
  · intro i
    simp [Cache.reset, Cache.entry, Entry.hasMarks]

theorem Entry.isFree_of_live (x : Entry) (h : x.live = true) : x.isFree = false := by
  cases x <;> simp_all [Entry.live, Entry.isFree]

theorem Entry.hasMarks_notFree (x : Entry) (h : x.hasMarks = true) : x.isFree = false := by
  cases x <;> simp_all [Entry.hasMarks, Entry.isFree]

/-- A list with one entry moved to the front holds the same entries. -/
theorem mem_moveFront (l : List EntryIx) (i j : EntryIx) : j ∈ i :: l.erase i ↔ j = i ∨ j ∈ l := by
  by_cases h : j = i
  · simp [h]
  · simp [h, List.mem_erase_of_ne h]

theorem nodup_moveFront (l : List EntryIx) (i : EntryIx) (h : l.Nodup) : (i :: l.erase i).Nodup := by
  rw [List.nodup_cons]
  exact ⟨fun hm => (h.mem_erase_iff.mp hm).1 rfl, h.erase i⟩

/-- A hit on an entry that is not FREE keeps the lists (R67). -/
theorem Cache.touch_ok (c : Cache) (i : EntryIx) (h : c.Ok) (hi : (c.entry i).isFree = false) : (c.touch i).Ok := by
  refine ⟨nodup_moveFront _ _ h.1, ?_, h.2.2.1, h.2.2.2⟩
  intro j
  have := h.2.1 j
  simp only [Cache.touch, mem_moveFront]
  constructor
  · rintro (rfl | hj)
    · exact hi
    · exact this.mp hj
  · exact fun hj => .inr (this.mpr hj)

/-- An install of an entry without marks in the place of one without marks keeps the lists (R70). -/
theorem Cache.install_ok (c : Cache) (i : EntryIx) (e : Entry) (h : c.Ok) (hi : (c.entry i).hasMarks = false)
    (he : e.isFree = false) (hm : e.hasMarks = false) : (c.install i e).Ok := by
  have hentry : ∀ j, (c.install i e).entry j = if i = j then e else c.entry j := by
    intro j
    simp [Cache.install, Cache.touch, Cache.entry]
  refine ⟨nodup_moveFront _ _ h.1, ?_, h.2.2.1, ?_⟩
  · intro j
    rw [hentry j]
    simp only [Cache.install, Cache.touch, mem_moveFront]
    by_cases hj : i = j
    · subst hj
      simp [he]
    · simp only [if_neg hj]
      constructor
      · rintro (rfl | hj')
        · exact absurd rfl hj
        · exact (h.2.1 j).mp hj'
      · exact fun hj' => .inr ((h.2.1 j).mpr hj')
  · intro j
    rw [hentry j]
    have := h.2.2.2 j
    by_cases hj : i = j
    · subst hj
      rw [if_pos rfl, hm]
      rw [hi] at this
      exact this
    · rw [if_neg hj]
      exact this

theorem Entry.raise_isFree (kind : AccessKind) (x : Entry) : (x.raise kind).isFree = x.isFree := by
  cases x <;> rfl

/-- Raising marks never takes one away. -/
theorem Entry.raise_hasMarks (kind : AccessKind) (x : Entry) (h : x.hasMarks = true) : (x.raise kind).hasMarks = true := by
  cases x with
  | valid k p d st m =>
    rcases m with ⟨u, w⟩
    cases u <;> cases w <;> simp_all [Entry.hasMarks, Entry.raise, Marks.raise, Marks.isEmpty]
  | _ => exact h

/-- Raised marks put their entry into the asking order once (R110). -/
theorem Cache.raiseMarks_ok (c : Cache) (i : EntryIx) (kind : AccessKind) (h : c.Ok) : (c.raiseMarks i kind).Ok := by
  have hentry : ∀ j, (c.raiseMarks i kind).entry j = if i = j then (c.entry i).raise kind else c.entry j := by
    intro j
    simp [Cache.raiseMarks, Cache.entry]
  refine ⟨h.1, ?_, ?_, ?_⟩
  · intro j
    rw [hentry j]
    have := h.2.1 j
    by_cases hj : i = j
    · subst hj
      rw [if_pos rfl, Entry.raise_isFree]
      exact this
    · rw [if_neg hj]
      exact this
  · simp only [Cache.raiseMarks]
    split
    · rename_i hc
      rw [List.nodup_append]
      refine ⟨h.2.2.1, by simp, ?_⟩
      intro a ha b hb hab
      simp only [List.mem_singleton] at hb
      subst hb
      subst hab
      have := (h.2.2.2 a).mp ha
      rw [hc.1] at this
      exact absurd this (by simp)
    · exact h.2.2.1
  · intro j
    rw [hentry j]
    have hj0 := h.2.2.2 j
    simp only [Cache.raiseMarks]
    by_cases hc : (c.entry i).hasMarks = false ∧ ((c.entry i).raise kind).hasMarks = true
    · rw [if_pos hc]
      by_cases hj : i = j
      · subst hj
        simp [hc.2]
      · have hj' : ¬ j = i := fun e => hj e.symm
        simp [hj, hj', hj0]
    · rw [if_neg hc]
      by_cases hj : i = j
      · subst hj
        rw [if_pos rfl, hj0]
        constructor
        · exact Entry.raise_hasMarks kind _
        · intro hr
          by_contra hn
          exact hc ⟨by simpa using hn, hr⟩
      · rw [if_neg hj]
        exact hj0

/-- New entries that fill no FREE place and raise no mark keep the lists, once these are filtered (R67, R110). -/
theorem Cache.withEntries_ok (c : Cache) (entries : Vector Entry 16) (h : c.Ok)
    (hf : ∀ i, (peek entries i).isFree = false → (c.entry i).isFree = false)
    (hm : ∀ i, (peek entries i).hasMarks = true → (c.entry i).hasMarks = true) : (c.withEntries entries).Ok := by
  refine ⟨h.1.filter _, ?_, h.2.2.1.filter _, ?_⟩
  · intro i
    simp only [Cache.withEntries, Cache.entry, List.mem_filter, Bool.not_eq_true']
    exact ⟨fun hi => hi.2, fun hi => ⟨(h.2.1 i).mpr (hf i hi), hi⟩⟩
  · intro i
    simp only [Cache.withEntries, Cache.entry, List.mem_filter]
    exact ⟨fun hi => hi.2, fun hi => ⟨(h.2.2.2 i).mpr (hm i hi), hi⟩⟩

theorem Entry.invalidated_notFree (x : Entry) (h : x.invalidated.isFree = false) : x.isFree = false := by
  cases x <;> simp_all [Entry.invalidated, Entry.isFree]

theorem Entry.invalidated_hasMarks (x : Entry) : x.invalidated.hasMarks = false := by
  cases x with
  | valid k p d st m => cases p <;> rfl
  | absent k p => cases p <;> rfl
  | _ => rfl

theorem Cache.invalidate_ok (c : Cache) (covered : Entry → Bool) (h : c.Ok) : (c.invalidate covered).Ok := by
  apply Cache.withEntries_ok c _ h
  · intro i
    rw [show peek (everyPlace (fun e => if covered e = true then e.invalidated else e) c.entries) i =
      (c.invalidate covered).entry i from rfl, Cache.invalidate_entry]
    split
    · exact Entry.invalidated_notFree _
    · exact id
  · intro i
    rw [show peek (everyPlace (fun e => if covered e = true then e.invalidated else e) c.entries) i =
      (c.invalidate covered).entry i from rfl, Cache.invalidate_entry]
    split
    · rw [Entry.invalidated_hasMarks]
      simp
    · exact id

theorem Entry.pin_isFree (x : Entry) : x.pin.isFree = x.isFree := by cases x <;> rfl

theorem Entry.pin_hasMarks (x : Entry) : x.pin.hasMarks = x.hasMarks := by cases x <;> rfl

theorem Cache.pin_ok (c : Cache) (i : EntryIx) (h : c.Ok) : (c.pin i).Ok := by
  have hentry : ∀ j, (c.pin i).entry j = if i = j then (c.entry i).pin else c.entry j := by
    intro j
    simp [Cache.pin, Cache.entry]
  refine ⟨h.1, ?_, h.2.2.1, ?_⟩
  · intro j
    rw [hentry j]
    by_cases hj : i = j
    · subst hj
      rw [if_pos rfl, Entry.pin_isFree]
      exact h.2.1 i
    · rw [if_neg hj]
      exact h.2.1 j
  · intro j
    rw [hentry j]
    by_cases hj : i = j
    · subst hj
      rw [if_pos rfl, Entry.pin_hasMarks]
      exact h.2.2.2 i
    · rw [if_neg hj]
      exact h.2.2.2 j

theorem Entry.unpin_notFree (x : Entry) (h : x.unpin.isFree = false) : x.isFree = false := by
  cases x <;> simp_all [Entry.unpin, Entry.isFree]

theorem Entry.unpin_hasMarks (x : Entry) (h : x.unpin.hasMarks = true) : x.hasMarks = true := by
  cases x <;> simp_all [Entry.unpin, Entry.hasMarks]

theorem Cache.unpin_ok (c : Cache) (i : EntryIx) (h : c.Ok) : (c.unpin i).Ok := by
  apply Cache.withEntries_ok c _ h
  · intro j
    rw [peek_poke]
    split
    · rename_i hj
      subst hj
      exact Entry.unpin_notFree _
    · exact id
  · intro j
    rw [peek_poke]
    split
    · rename_i hj
      subst hj
      exact Entry.unpin_hasMarks _
    · exact id

theorem Entry.share_isFree (value : Byte) (x : Entry) : (x.share value).isFree = x.isFree := by cases x <;> rfl

/-- A sharer loses pending marks and gains none (R112). -/
theorem Entry.share_hasMarks (value : Byte) (x : Entry) (h : (x.share value).hasMarks = true) : x.hasMarks = true := by
  cases x with
  | valid k p d st m =>
    rcases m with ⟨u, w⟩
    cases u <;> cases w <;> simp_all [Entry.hasMarks, Entry.share, Marks.without, Marks.isEmpty]
  | _ => exact h

theorem Entry.sent_isFree (x : Entry) : x.sent.isFree = x.isFree := by cases x <;> rfl

theorem Entry.sent_hasMarks (x : Entry) : x.sent.hasMarks = false := by cases x <;> rfl

theorem Cache.sendStatus_entry (c : Cache) (i : EntryIx) (shares : Key → Bool) (j : EntryIx) :
    (c.sendStatus i shares).entry j =
      if j = i then (c.entry j).sent
      else if ((c.entry j).key?.map shares).getD false = true then (c.entry j).share (c.entry i).statusValue
      else c.entry j := by
  simp [Cache.sendStatus, Cache.withEntries, Cache.entry, peek]

theorem Cache.sendStatus_ok (c : Cache) (i : EntryIx) (shares : Key → Bool) (h : c.Ok) :
    (c.sendStatus i shares).Ok := by
  apply Cache.withEntries_ok c _ h
  · intro j
    change ((c.sendStatus i shares).entry j).isFree = false → _
    rw [Cache.sendStatus_entry]
    split
    · rw [Entry.sent_isFree]
      exact id
    · split
      · rw [Entry.share_isFree]
        exact id
      · exact id
  · intro j
    change ((c.sendStatus i shares).entry j).hasMarks = true → _
    rw [Cache.sendStatus_entry]
    split
    · rw [Entry.sent_hasMarks]
      simp
    · split
      · exact Entry.share_hasMarks _ _
      · exact id

/-- The entry that receives an install has no pending marks (R69). -/
theorem Cache.choose_noMarks (c : Cache) (k : Key) (e : EntryIx) (h : c.choose k = some e) :
    (c.entry e).hasMarks = false := by
  rw [Cache.choose_eq_some] at h
  rcases h with h | h | ⟨_, _, _, _, _, hp, _⟩
  · rw [h.1]
    rfl
  · rw [h.2.1]
    rfl
  · rcases hx : c.entry e with _ | ⟨k, p, d, st, m⟩ | ⟨k, p⟩ | k
    · rfl
    · rw [hx] at hp
      simp only [Entry.evictable, Bool.and_eq_true] at hp
      simp [Entry.hasMarks, hp.2]
    · rfl
    · rfl

theorem Held.entry_isFree (h : Held) (k : Key) (p : Bool) : (h.entry k p).isFree = false := by cases h <;> rfl

theorem Held.entry_hasMarks (h : Held) (k : Key) (p : Bool) : (h.entry k p).hasMarks = false := by cases h <;> rfl

end Sys2Proof.Machine
end

