-- ==== Sys2Proof/Laws/Memory.lean ====
section
/-! SUPPORT. Reading after writing, and the canonical form of memory. -/

namespace Sys2Proof.Machine

theorem Memory.read_of_lt (m : List Host.Cell) (k : Nat) (h : ∀ c ∈ m, k < c.1) : Memory.read m k = Config.blankByte := by
  induction m with
  | nil => rfl
  | cons c m ih =>
    have hc := h c (by simp)
    rw [Memory.read, if_neg (by omega)]
    exact ih fun d hd => h d (by simp [hd])

/-- Writing a byte keeps the keys rising. -/
theorem Memory.write_pairwise (m : List Host.Cell) (k : Nat) (v : Byte) (h : m.Pairwise (fun a b => a.1 < b.1)) :
    (Memory.write m k v).Pairwise (fun a b => a.1 < b.1) ∧ ∀ c ∈ Memory.write m k v, c.1 = k ∨ c ∈ m := by
  induction m with
  | nil =>
    unfold Memory.write
    split <;> simp
  | cons c m ih =>
    rw [List.pairwise_cons] at h
    obtain ⟨ih1, ih2⟩ := ih h.2
    unfold Memory.write
    split
    · rename_i hlt
      split
      · exact ⟨List.pairwise_cons.2 h, fun d hd => .inr hd⟩
      · refine ⟨List.pairwise_cons.2 ⟨?_, List.pairwise_cons.2 h⟩, ?_⟩
        · intro d hd
          rcases List.mem_cons.mp hd with rfl | hd
          · exact hlt
          · exact lt_trans hlt (h.1 d hd)
        · intro d hd
          rcases List.mem_cons.mp hd with rfl | hd
          · exact .inl rfl
          · exact .inr hd
    · split
      · rename_i heq
        split
        · exact ⟨h.2, fun d hd => .inr (by simp [hd])⟩
        · refine ⟨List.pairwise_cons.2 ⟨?_, h.2⟩, ?_⟩
          · intro d hd
            simpa [heq] using h.1 d hd
          · intro d hd
            rcases List.mem_cons.mp hd with rfl | hd
            · exact .inl rfl
            · exact .inr (by simp [hd])
      · rename_i hlt hne
        refine ⟨List.pairwise_cons.2 ⟨?_, ih1⟩, ?_⟩
        · intro d hd
          rcases ih2 d hd with hd | hd
          · omega
          · exact h.1 d hd
        · intro d hd
          rcases List.mem_cons.mp hd with rfl | hd
          · exact .inr (by simp)
          · rcases ih2 d hd with hd | hd
            · exact .inl hd
            · exact .inr (by simp [hd])

theorem Memory.write_cells (m : List Host.Cell) (k : Nat) (v : Byte)
    (h : ∀ c ∈ m, c.2 ≠ Config.blankByte ∧ c.1 < memorySpace) (hk : k < memorySpace) :
    ∀ c ∈ Memory.write m k v, c.2 ≠ Config.blankByte ∧ c.1 < memorySpace := by
  induction m with
  | nil =>
    unfold Memory.write
    split
    · simp
    · rename_i hv
      intro c hc
      simp only [List.mem_singleton] at hc
      subst hc
      exact ⟨hv, hk⟩
  | cons c m ih =>
    have ih := ih fun d hd => h d (by simp [hd])
    unfold Memory.write
    split
    · split
      · exact h
      · rename_i hv
        intro d hd
        rcases List.mem_cons.mp hd with rfl | hd
        · exact ⟨hv, hk⟩
        · exact h d hd
    · split
      · split
        · exact fun d hd => h d (by simp [hd])
        · rename_i hv
          intro d hd
          rcases List.mem_cons.mp hd with rfl | hd
          · exact ⟨hv, hk⟩
          · exact h d (by simp [hd])
      · intro d hd
        rcases List.mem_cons.mp hd with rfl | hd
        · exact h _ (by simp)
        · exact ih d hd

/-- Writing a byte of the space keeps the canonical form. -/
theorem Memory.write_wf (m : List Host.Cell) (k : Nat) (v : Byte) (h : Memory.Wf m) (hk : k < memorySpace) :
    Memory.Wf (Memory.write m k v) :=
  ⟨(Memory.write_pairwise m k v h.1).1, Memory.write_cells m k v h.2 hk⟩

/-- Reading after writing: the byte written at its key, and every other byte as it was. -/
theorem Memory.read_write (m : List Host.Cell) (k j : Nat) (v : Byte) (h : m.Pairwise (fun a b => a.1 < b.1)) :
    Memory.read (Memory.write m k v) j = if j = k then v else Memory.read m j := by
  induction m with
  | nil =>
    unfold Memory.write
    split
    · rename_i hv
      simp [Memory.read, hv]
    · simp [Memory.read]
  | cons c m ih =>
    rw [List.pairwise_cons] at h
    have ih := ih h.2
    have hgt : ∀ j ≤ c.1, ∀ d ∈ m, j < d.1 := fun j hj d hd => lt_of_le_of_lt hj (h.1 d hd)
    unfold Memory.write
    split
    · rename_i hlt
      split
      · rename_i hv
        by_cases hj : j = k
        · rw [if_pos hj, hv]
          apply Memory.read_of_lt
          intro d hd
          rcases List.mem_cons.mp hd with rfl | hd
          · omega
          · exact hgt j (by omega) d hd
        · rw [if_neg hj]
      · rw [Memory.read]
    · split
      · rename_i hlt heq
        split
        · rename_i hv
          by_cases hj : j = k
          · rw [if_pos hj, hv]
            exact Memory.read_of_lt _ _ (hgt j (by omega))
          · rw [if_neg hj, Memory.read, if_neg (by omega)]
        · by_cases hj : j = k
          · rw [Memory.read]
            simp only [hj, if_true]
          · rw [Memory.read, if_neg hj, if_neg hj, Memory.read, if_neg (by omega)]
      · rename_i hlt hne
        by_cases hj : j = c.1
        · rw [Memory.read, if_pos hj, if_neg (by omega), Memory.read, if_pos hj]
        · rw [Memory.read, if_neg hj, ih, Memory.read, if_neg hj]

theorem cellKey_lt (t : Target) (a : Addr) : cellKey t a < memorySpace := by
  unfold cellKey memorySpace
  have := a.isLt
  have := t.isLt
  omega

theorem cellKey_inj (t t' : Target) (a a' : Addr) : cellKey t a = cellKey t' a' ↔ t = t' ∧ a = a' := by
  unfold cellKey
  constructor
  · intro h
    have h1 := a.isLt
    have h2 := a'.isLt
    refine ⟨Fin.ext (by omega), BitVec.eq_of_toNat_eq (by omega)⟩
  · rintro ⟨rfl, rfl⟩
    rfl

/-- Writing a list of addresses of one target. -/
theorem Memory.writes_wf (t : Target) (f : Addr → Byte) (l : List Addr) (m : List Host.Cell) (h : Memory.Wf m) :
    Memory.Wf (l.foldl (fun m a => Memory.write m (cellKey t a) (f a)) m) := by
  induction l generalizing m with
  | nil => exact h
  | cons a l ih => exact ih _ (Memory.write_wf m _ _ h (cellKey_lt t a))

/-- Reading after writing a list of addresses of one target. -/
theorem Memory.read_writes (t t' : Target) (f : Addr → Byte) (l : List Addr) (m : List Host.Cell) (a' : Addr)
    (h : m.Pairwise (fun a b => a.1 < b.1)) :
    Memory.read (l.foldl (fun m a => Memory.write m (cellKey t a) (f a)) m) (cellKey t' a') =
      if t' = t ∧ a' ∈ l then f a' else Memory.read m (cellKey t' a') := by
  induction l generalizing m with
  | nil => simp
  | cons a l ih =>
    rw [List.foldl_cons, ih _ (Memory.write_pairwise m _ _ h).1, Memory.read_write m _ _ _ h]
    by_cases ht : t' = t
    · by_cases ha : a' ∈ l
      · simp [ht, ha]
      · by_cases haa : a' = a
        · subst haa
          simp [ht]
        · have : ¬ cellKey t' a' = cellKey t a := by
            rw [cellKey_inj]
            tauto
          simp [ht, ha, haa, cellKey_inj]
    · simp [ht, cellKey_inj]

/-- A write beat keeps the canonical form (R125, R126). -/
theorem MemOp.writeBeat_wf (op : MemOp) (b : Beat) (m : List Host.Cell) (h : Memory.Wf m) :
    Memory.Wf (op.writeBeat b m) :=
  Memory.writes_wf op.place.target op.byteFor b.addrs m h

/-- The bytes after a write beat: the enabled bytes hold the placed bytes, every other byte is as it was (R125, R126). -/
theorem MemOp.read_writeBeat (op : MemOp) (b : Beat) (m : List Host.Cell) (t : Target) (a : Addr) (h : Memory.Wf m) :
    Memory.read (op.writeBeat b m) (cellKey t a) =
      if t = op.place.target ∧ a ∈ b.addrs then op.byteFor a else Memory.read m (cellKey t a) :=
  Memory.read_writes op.place.target t op.byteFor b.addrs m a h.1

theorem State.reset_memoryWf : Memory.Wf State.reset.mem := by
  simp [State.reset, Memory.Wf]

end Sys2Proof.Machine
end

