-- ==== Sys2Proof/Laws/Port.lean ====
section
/-! SUPPORT. The memory port: when an operation starts, what passing periods change, and how a beat ends. -/

namespace Sys2Proof.Machine

/-! ## Periods (R128) -/

theorem State.elapse_of_none (s : State) (n : Nat) (h : s.port.current = none) :
    s.elapse n = { s with
      port := { s.port with
        recovery := Vector.ofFn fun t => BitVec.ofNat 2 ((peek s.port.recovery t).toNat - n) } } := by
  simp [State.elapse, Port.elapse, h]

theorem State.elapse_of_some (s : State) (n : Nat) (pr : Progress) (op : MemOp) (rest : List MemOp)
    (h : s.port.current = some pr) (h' : s.port.queue = op :: rest) :
    s.elapse n = { s with
      port := { s.port with
        recovery := Vector.ofFn fun t =>
          if t = op.place.target then peek s.port.recovery t
          else BitVec.ofNat 2 ((peek s.port.recovery t).toNat - n) } } := by
  simp [State.elapse, Port.elapse, h, h', eq_comm]

/-! ## Start (R123, R128) -/

/-- Every operation that moves a byte has a beat (R124). -/
theorem beatsOf_ne_nil (w : Width) (p n : Nat) (h : 1 ≤ n) : beatsOf w p n ≠ [] := by
  unfold beatsOf
  cases w with
  | w8 => simp; omega
  | w16 => simp

section
variable (p : Port) (op : MemOp)

@[simp] theorem Port.start_queue : (p.start op).queue = p.queue := by unfold Port.start; split <;> rfl
@[simp] theorem Port.start_timing : (p.start op).timing = p.timing := by unfold Port.start; split <;> rfl
@[simp] theorem Port.start_recovery : (p.start op).recovery = p.recovery := by unfold Port.start; split <;> rfl
@[simp] theorem Port.start_forwardPtr : (p.start op).forwardPtr = p.forwardPtr := by unfold Port.start; split <;> rfl
@[simp] theorem Port.start_discards : (p.start op).discards = p.discards := by unfold Port.start; split <;> rfl

theorem Port.tryStart_cases : p.tryStart = p ∨
    p.current = none ∧ ∃ op rest, p.queue = op :: rest ∧ peek p.recovery op.place.target = 0 ∧ p.tryStart = p.start op := by
  unfold Port.tryStart
  split
  · rename_i op rest hc hq
    split
    · rename_i hr
      exact .inr ⟨hc, op, rest, hq, hr, rfl⟩
    · exact .inl rfl
  · exact .inl rfl

@[simp] theorem Port.tryStart_queue : p.tryStart.queue = p.queue := by
  rcases p.tryStart_cases with h | ⟨_, op, _, _, _, h⟩ <;> simp [h]
@[simp] theorem Port.tryStart_timing : p.tryStart.timing = p.timing := by
  rcases p.tryStart_cases with h | ⟨_, op, _, _, _, h⟩ <;> simp [h]
@[simp] theorem Port.tryStart_recovery : p.tryStart.recovery = p.recovery := by
  rcases p.tryStart_cases with h | ⟨_, op, _, _, _, h⟩ <;> simp [h]
@[simp] theorem Port.tryStart_forwardPtr : p.tryStart.forwardPtr = p.forwardPtr := by
  rcases p.tryStart_cases with h | ⟨_, op, _, _, _, h⟩ <;> simp [h]
@[simp] theorem Port.tryStart_discards : p.tryStart.discards = p.discards := by
  rcases p.tryStart_cases with h | ⟨_, op, _, _, _, h⟩ <;> simp [h]

end

/-- Nothing starts while an operation is in progress, or while the head's target recovers. -/
theorem Port.tryStart_of_held (p : Port) (op : MemOp) (rest : List MemOp) (hq : p.queue = op :: rest)
    (h : p.current ≠ none ∨ peek p.recovery op.place.target ≠ 0) : p.tryStart = p := by
  rcases p.tryStart_cases with h' | ⟨hc, op', rest', hq', hr, _⟩
  · exact h'
  · rw [hq] at hq'
    cases hq'
    rcases h with h | h
    · exact absurd hc h
    · exact absurd hr h

theorem Port.tryStart_of_empty (p : Port) (hq : p.queue = []) : p.tryStart = p := by
  rcases p.tryStart_cases with h' | ⟨_, op', rest', hq', _, _⟩
  · exact h'
  · rw [hq] at hq'
    cases hq'

/-- The head operation starts with the timing record of its target. -/
theorem Port.tryStart_of_ready (p : Port) (op : MemOp) (rest : List MemOp) (hq : p.queue = op :: rest)
    (hc : p.current = none) (hr : peek p.recovery op.place.target = 0) : p.tryStart = p.start op := by
  unfold Port.tryStart
  rw [hc, hq]
  simp only [hr, if_true]

theorem Port.start_eq (p : Port) (op : MemOp) (b : Beat) (bs : List Beat)
    (h : beatsOf (peek p.timing op.place.target).width op.place.addr.toNat op.length = b :: bs) :
    p.start op = p.beginBeat (peek p.timing op.place.target) [] b bs := by
  unfold Port.start
  rw [h]

/-! ## The end of a beat (R126, R127, R129) -/

/-- The bytes gathered when the beat under way has ended. -/
def MemOp.gathered (op : MemOp) (pr : Progress) (m : List Host.Cell) : List Byte :=
  if op.isWrite = true then pr.gathered else pr.gathered ++ op.readBeat pr.beat m

/-- Memory when the beat under way has ended. -/
def MemOp.memAfter (op : MemOp) (pr : Progress) (m : List Host.Cell) : List Host.Cell :=
  if op.isWrite = true then op.writeBeat pr.beat m else m

theorem MemOp.memAfter_wf (op : MemOp) (pr : Progress) (m : List Host.Cell) (h : Memory.Wf m) :
    Memory.Wf (op.memAfter pr m) := by
  unfold MemOp.memAfter
  split
  · exact op.writeBeat_wf pr.beat m h
  · exact h

/-- A beat that is not the last: the next one begins. -/
theorem State.finishBeat_of_more (s : State) (pr : Progress) (op : MemOp) (rest : List MemOp) (b : Beat) (bs : List Beat)
    (hc : s.port.current = some pr) (hq : s.port.queue = op :: rest) (hb : pr.rest = b :: bs) :
    s.finishBeat = { s with
      mem := op.memAfter pr s.mem, port := s.port.beginBeat pr.timing (op.gathered pr s.mem) b bs } := by
  simp only [State.finishBeat, hc, hq, hb]
  rfl

/-- The last beat: the operation leaves the queue and is handed over. -/
theorem State.finishBeat_of_last (s : State) (pr : Progress) (op : MemOp) (rest : List MemOp)
    (hc : s.port.current = some pr) (hq : s.port.queue = op :: rest) (hb : pr.rest = []) :
    s.finishBeat =
      (State.handOver { s with mem := op.memAfter pr s.mem, port := s.port.leave pr op rest } op
        (op.gathered pr s.mem)).afterOperation := by
  simp only [State.finishBeat, hc, hq, hb]
  rfl

theorem State.abandonBeat_eq (s : State) (pr : Progress) (op : MemOp) (rest : List MemOp)
    (hc : s.port.current = some pr) (hq : s.port.queue = op :: rest) :
    s.abandonBeat = (State.handFailure { s with port := s.port.leave pr op rest } op).afterOperation := by
  simp only [State.abandonBeat, hc, hq]

/-- A beat row whose condition holds ends the beat (R126, R129; log 1, log 3). -/
theorem State.completeBeat_eq (s : State) (want : BeatEnd) (x n : Nat) (hr : s.resetActive = false)
    (he : s.beatEnd = some want) (hn : s.periodsToEnd x = some n) :
    s.completeBeat want x = (s.elapse n).finishBeat := by
  simp [State.completeBeat, hr, he, hn]

theorem State.periodsToEnd_eq (s : State) (pr : Progress) (x : Nat) (hc : s.port.current = some pr) :
    s.periodsToEnd x = pr.periodsToEnd x := by
  simp [State.periodsToEnd, hc]

end Sys2Proof.Machine
end

