-- ==== Sys2Proof/Laws/Entry.lean ====
section
/-! SUPPORT. The entry arbiter: what an offer and a grant say, and how entry and departure change the number of forwarded
operations of an originator. -/

namespace Sys2Proof.Machine

/-! ## The forwarded operations of an originator (R43, R119) -/

/-- The count looks at the queue alone. -/
theorem Port.forwardedOf_congr {p q : Port} (h : p.queue = q.queue) (o : Originator) :
    p.forwardedOf o = q.forwardedOf o := by
  unfold Port.forwardedOf
  rw [h]

@[simp] theorem Port.forwardedOf_tryStart (p : Port) (o : Originator) : p.tryStart.forwardedOf o = p.forwardedOf o :=
  Port.forwardedOf_congr p.tryStart_queue o

/-- An entry adds one to the count of the operation's own originator, and to no other. -/
theorem Port.forwardedOf_enter (p : Port) (op : MemOp) (o : Originator) :
    (p.enter op).forwardedOf o = p.forwardedOf o + if op.forwardOrg? = some o then 1 else 0 := by
  rw [Port.enter, Port.forwardedOf_tryStart]
  simp [Port.forwardedOf, List.countP_append, List.countP_singleton]

/-- When the head leaves, no count rises. -/
theorem Port.forwardedOf_leave_le (p : Port) (pr : Progress) (op : MemOp) (rest : List MemOp) (h : p.queue = op :: rest)
    (o : Originator) : (p.leave pr op rest).forwardedOf o ≤ p.forwardedOf o := by
  unfold Port.forwardedOf Port.leave
  rw [h]
  exact List.Sublist.countP_le (List.sublist_cons_self op rest)

/-- A shorter queue holds no more of them. -/
theorem Port.forwardedOf_le_of_sublist {p q : Port} (h : p.queue.Sublist q.queue) (o : Originator) :
    p.forwardedOf o ≤ q.forwardedOf o :=
  h.countP_le

/-! ## Offers and grants (R53, R120) -/

theorem State.forwardOffer_eq_some (s : State) (o : Originator) (i : SlotIx) :
    s.forwardOffer o = some i ↔
      (s.order o).find? (fun j => (s.slot j).isResolved) = some i ∧
      ∃ a d st, s.slot i = .held a d st ∧ s.port.forwardedOf a.org < 4 := by
  unfold State.forwardOffer
  rw [Option.filter_eq_some_iff]
  refine and_congr_right fun _ => ?_
  unfold State.hasForwardPlace
  cases s.slot i with
  | free => simp
  | held a d st =>
    exact ⟨fun h => ⟨a, d, st, rfl, of_decide_eq_true h⟩, fun ⟨_, _, _, e, h⟩ => by cases e; exact decide_eq_true h⟩

/-- What a grant of a forwarded access says: entry is open, the queue has room, nothing goes before it, and the originator
offers the slot. -/
theorem State.grant_forward (s : State) (o : Originator) (i : SlotIx) (h : s.grant = some (.forward o i)) :
    s.isOpen = true ∧ s.port.queue.length < 8 ∧ s.fetch.asks = [] ∧ s.statusOffer = none ∧
      s.forwardOffer o = some i := by
  unfold State.grant at h
  split at h
  · rename_i hopen
    split at h
    · cases h
    · rename_i hasks
      split at h
      · cases h
      · rename_i hstatus
        unfold State.forwardGrant at h
        split at h
        · rename_i o' _
          cases ho : s.forwardOffer o' with
          | none => rw [ho] at h; cases h
          | some j =>
            rw [ho] at h
            cases h
            exact ⟨hopen.1, hopen.2, List.head?_eq_none_iff.mp hasks, hstatus, ho⟩
        · cases h
  · cases h

/-- The slot of a granted forwarded access is RESOLVED, and its originator has room for the operation. -/
theorem State.grant_forward_slot (s : State) (o : Originator) (i : SlotIx) (h : s.grant = some (.forward o i)) :
    ∃ a d t, s.slot i = .held a d (.resolved t) ∧ s.port.forwardedOf a.org < 4 := by
  obtain ⟨-, -, -, -, ho⟩ := s.grant_forward o i h
  obtain ⟨hf, a, d, st, hs, hlt⟩ := (s.forwardOffer_eq_some o i).mp ho
  have hr := List.find?_some hf
  cases st with
  | resolved t => exact ⟨a, d, t, hs, hlt⟩
  | _ => simp [hs, Slot.isResolved] at hr

end Sys2Proof.Machine
end

