-- ==== Sys2Proof/Laws/Settle.lean ====
section
/-! SUPPORT. The install wait: when a waiting install is made, what making it leaves, and that after two of them none is
left that an entry can receive. -/

namespace Sys2Proof.Machine

/-! ## When it is made -/

/-- No entry can receive an install exactly when none is STALE with the key, FREE or evictable, in a cache whose recency
list holds the entries that are not FREE. -/
theorem Cache.choose_none_iff (c : Cache) (k : Key) (h : c.Ok) :
    c.choose k = none ↔ ∀ e, c.entry e ≠ .stale k ∧ c.entry e ≠ .free ∧ (c.entry e).evictable = false := by
  refine ⟨?_, c.choose_eq_none k⟩
  intro hn
  unfold Cache.choose at hn
  split at hn
  · cases hn
  · rename_i hs
    split at hn
    · cases hn
    · rename_i hf
      simp only [find_allEntries_none, Entry.staleOf_iff, Entry.isFree_iff, Bool.eq_false_iff, ne_eq] at hs hf
      simp only [List.find?_eq_none, List.mem_reverse] at hn
      intro e
      refine ⟨hs e, hf e, Bool.eq_false_iff.mpr (hn e ((h.2.1 e).mpr ?_))⟩
      rw [Bool.eq_false_iff, ne_eq, Entry.isFree_iff]
      exact hf e

theorem State.makeWaitingInstall_of_none (s : State) (h : s.fetch.installs = []) : s.makeWaitingInstall = s := by
  unfold State.makeWaitingInstall
  rw [h]

/-- The oldest waiting install, when an entry can receive it. -/
theorem State.makeWaitingInstall_of_some (s : State) (i : FetchIx) (rest : List FetchIx) (k : Key) (ws : List Waiter)
    (n : Nat) (p : Place) (h : Held) (e : EntryIx) (hi : s.fetch.installs = i :: rest)
    (hs : s.fetch.slot i = .installing k ws n p h) (he : s.cache.choose k = some e) :
    s.makeWaitingInstall = { s with fetch := { s.fetch with installs := rest } }.makeInstall i k ws h e := by
  unfold State.makeWaitingInstall
  simp only [hi, hs, he]

/-- Either nothing is made, or the oldest waiting install is. -/
theorem State.makeWaitingInstall_cases (s : State) :
    s.makeWaitingInstall = s ∨
      ∃ i rest k ws n p h e, s.fetch.installs = i :: rest ∧ s.fetch.slot i = .installing k ws n p h ∧
        s.cache.choose k = some e ∧
        s.makeWaitingInstall = { s with fetch := { s.fetch with installs := rest } }.makeInstall i k ws h e := by
  unfold State.makeWaitingInstall
  rcases hl : s.fetch.installs with _ | ⟨i, rest⟩
  · exact .inl rfl
  · rcases hf : s.fetch.slot i with _ | _ | ⟨k, ws, n, p, h⟩
    · exact .inl (by simp only [hf])
    · exact .inl (by simp only [hf])
    · rcases he : s.cache.choose k with _ | e
      · exact .inl (by simp only [hf, he])
      · exact .inr ⟨i, rest, k, ws, n, p, h, e, rfl, hf, he, by simp only [hf, he]⟩

/-- Where no entry can receive the oldest waiting install, none is made. -/
theorem State.makeWaitingInstall_of_settled (s : State) (h : s.Settled) : s.makeWaitingInstall = s := by
  rcases s.makeWaitingInstall_cases with h' | ⟨i, rest, k, ws, n, p, held, e, hi, hs, he, _⟩
  · exact h'
  · have hk := h i (by rw [hi]; rfl) k (by rw [hs]; rfl)
    rw [Cache.choose_eq_none _ _ hk] at he
    cases he

theorem State.settle_of_settled (s : State) (h : s.Settled) : s.settle = s := by
  unfold State.settle
  rw [s.makeWaitingInstall_of_settled h, s.makeWaitingInstall_of_settled h, ite_self]

theorem State.settle_of_reset (s : State) (h : s.resetActive = true) : s.settle = s := by
  unfold State.settle
  rw [if_pos h]

theorem State.settled_of_none (s : State) (h : s.fetch.installs = []) : s.Settled := by
  intro f hf
  rw [h] at hf
  cases hf

/-! ## What it leaves as it is -/

/-- `u` agrees with `s` wherever making a waiting install changes nothing: it changes contexts, slots, the cache, the
fetch unit, the log and the engine. -/
structure InstallFrame (s u : State) : Prop where
  resetActive : u.resetActive = s.resetActive
  mode : u.mode = s.mode
  sequence : u.sequence = s.sequence
  waiting : u.waiting = s.waiting
  orders : u.intake.orders = s.intake.orders
  turnPtr : u.intake.turnPtr = s.intake.turnPtr
  responsePtr : u.intake.responsePtr = s.intake.responsePtr
  presented : u.intake.presented = s.intake.presented
  port : u.port = s.port
  mem : u.mem = s.mem
  freeCount : u.freeCount = s.freeCount
  pending : u.pending = s.pending

theorem InstallFrame.rfl (s : State) : InstallFrame s s := by
  constructor <;> exact Eq.refl _

theorem InstallFrame.trans {s t u : State} (h : InstallFrame s t) (h' : InstallFrame t u) : InstallFrame s u where
  resetActive := h'.resetActive.trans h.resetActive
  mode := h'.mode.trans h.mode
  sequence := h'.sequence.trans h.sequence
  waiting := h'.waiting.trans h.waiting
  orders := h'.orders.trans h.orders
  turnPtr := h'.turnPtr.trans h.turnPtr
  responsePtr := h'.responsePtr.trans h.responsePtr
  presented := h'.presented.trans h.presented
  port := h'.port.trans h.port
  mem := h'.mem.trans h.mem
  freeCount := h'.freeCount.trans h.freeCount
  pending := h'.pending.trans h.pending

theorem State.makeInstall_eq (s : State) (i : FetchIx) (k : Key) (ws : List Waiter) (h : Held) (e : EntryIx) :
    s.makeInstall i k ws h e =
      { { s with
          cache := s.cache.install e (h.entry k ((s.cache.entry e).staleOf k || s.pinWaits ws)) }.wakeAll k
            (h.outcome e (!(s.cache.entry e).staleOf k)) ws with
        fetch := s.fetch.release i } := by
  unfold State.makeInstall
  rw [State.endFetch_eq]

theorem State.makeInstall_frame (s : State) (i : FetchIx) (k : Key) (ws : List Waiter) (h : Held) (e : EntryIx) :
    InstallFrame s (s.makeInstall i k ws h e) := by
  rw [State.makeInstall_eq]
  have w := State.wakeAll_wakeFrame
    { s with cache := s.cache.install e (h.entry k ((s.cache.entry e).staleOf k || s.pinWaits ws)) } k
    (h.outcome e (!(s.cache.entry e).staleOf k)) ws
  exact ⟨w.resetActive, w.mode, w.sequence, w.waiting, w.orders, w.turnPtr, w.responsePtr, w.presented, w.port, w.mem,
    w.freeCount, w.pending⟩

theorem State.makeWaitingInstall_frame (s : State) : InstallFrame s s.makeWaitingInstall := by
  rcases s.makeWaitingInstall_cases with h | ⟨i, rest, k, ws, n, p, held, e, _, _, _, h⟩
  · rw [h]
    exact InstallFrame.rfl s
  · rw [h]
    have f := State.makeInstall_frame { s with fetch := { s.fetch with installs := rest } } i k ws held e
    exact ⟨f.resetActive, f.mode, f.sequence, f.waiting, f.orders, f.turnPtr, f.responsePtr, f.presented, f.port, f.mem,
      f.freeCount, f.pending⟩

theorem State.settle_frame (s : State) : InstallFrame s s.settle := by
  unfold State.settle
  split
  · exact InstallFrame.rfl s
  · exact s.makeWaitingInstall_frame.trans s.makeWaitingInstall.makeWaitingInstall_frame

@[simp] theorem State.settle_resetActive (s : State) : s.settle.resetActive = s.resetActive := s.settle_frame.resetActive
@[simp] theorem State.settle_mode (s : State) : s.settle.mode = s.mode := s.settle_frame.mode
@[simp] theorem State.settle_sequence (s : State) : s.settle.sequence = s.sequence := s.settle_frame.sequence
@[simp] theorem State.settle_waiting (s : State) : s.settle.waiting = s.waiting := s.settle_frame.waiting
@[simp] theorem State.settle_port (s : State) : s.settle.port = s.port := s.settle_frame.port
@[simp] theorem State.settle_mem (s : State) : s.settle.mem = s.mem := s.settle_frame.mem
@[simp] theorem State.settle_freeCount (s : State) : s.settle.freeCount = s.freeCount := s.settle_frame.freeCount
@[simp] theorem State.settle_pending (s : State) : s.settle.pending = s.pending := s.settle_frame.pending

/-! ## It keeps the lists of the cache -/

theorem State.wake_cacheOk (s : State) (k : Key) (o : FetchOutcome) (w : Waiter) (h : s.cache.Ok) :
    (s.wake k o w).cache.Ok := by
  cases w with
  | command =>
    simp only [State.wake]
    rw [State.wakeCommand_eq]
    exact h
  | request i =>
    simp only [State.wake, State.wakeRequest]
    split
    · rename_i a d hs
      rcases o with ⟨e, d', fresh⟩ | ⟨e, fresh⟩ | stamp | p | _
      · simp only
        rcases he : d'.evaluate a with t | c
        · rw [State.resolveAgainst_pass _ _ _ _ _ _ he]
          exact Cache.raiseMarks_ok _ _ _ h
        · rw [State.resolveAgainst_fail _ _ _ _ _ _ he, State.refuse_cache]
          exact h
      all_goals
        simp only [State.refuse_cache]
        exact h
    · exact h

theorem State.wakeAll_cacheOk (s : State) (k : Key) (o : FetchOutcome) (ws : List Waiter) (h : s.cache.Ok) :
    (s.wakeAll k o ws).cache.Ok := by
  unfold State.wakeAll
  induction ws generalizing s with
  | nil => exact h
  | cons w ws ih => exact ih _ (s.wake_cacheOk k o w h)

theorem State.makeInstall_cacheOk (s : State) (i : FetchIx) (k : Key) (ws : List Waiter) (held : Held) (e : EntryIx)
    (h : s.cache.Ok) (he : s.cache.choose k = some e) : (s.makeInstall i k ws held e).cache.Ok := by
  rw [State.makeInstall_eq]
  exact State.wakeAll_cacheOk _ _ _ _
    (Cache.install_ok _ _ _ h (Cache.choose_noMarks _ _ _ he) (Held.entry_isFree _ _ _) (Held.entry_hasMarks _ _ _))

theorem State.makeWaitingInstall_cacheOk (s : State) (h : s.cache.Ok) : s.makeWaitingInstall.cache.Ok := by
  rcases s.makeWaitingInstall_cases with h' | ⟨i, rest, k, ws, n, p, held, e, _, _, he, h'⟩
  · rw [h']
    exact h
  · rw [h']
    exact State.makeInstall_cacheOk _ _ _ _ _ _ h he

theorem State.settle_cacheOk (s : State) (h : s.cache.Ok) : s.settle.cache.Ok := by
  unfold State.settle
  split
  · exact h
  · exact State.makeWaitingInstall_cacheOk _ (s.makeWaitingInstall_cacheOk h)

/-! ## After two of them none is left -/

/-- A freed slot is not INSTALLING, the other slots are as they were, and the waiting order stays. -/
theorem FetchUnit.release_installKey (u : FetchUnit) (i : FetchIx) :
    ((u.release i).slot i).installKey? = none ∧ (∀ j, j ≠ i → (u.release i).slot j = u.slot j) ∧
      (u.release i).installs = u.installs := by
  unfold FetchUnit.release
  split
  · refine ⟨?_, ?_, rfl⟩
    · simp [FetchUnit.setSlot, FetchUnit.slot, FetchSlot.installKey?]
    · intro j hj
      simp [FetchUnit.setSlot, FetchUnit.slot, Ne.symm hj]
  · refine ⟨?_, ?_, rfl⟩
    · simp [FetchUnit.begin, FetchUnit.slot, FetchSlot.installKey?]
    · intro j hj
      simp [FetchUnit.begin, FetchUnit.slot, Ne.symm hj]

/-- An install that is made leaves its slot, keeps the other one and takes itself off the waiting order. -/
theorem State.makeWaitingInstall_slots (s : State) (i : FetchIx) (rest : List FetchIx) (k : Key) (ws : List Waiter)
    (h : Held) (e : EntryIx)
    (hm : s.makeWaitingInstall = { s with fetch := { s.fetch with installs := rest } }.makeInstall i k ws h e) :
    (s.makeWaitingInstall.fetch.slot i).installKey? = none ∧
      (∀ j, j ≠ i → s.makeWaitingInstall.fetch.slot j = s.fetch.slot j) ∧
      s.makeWaitingInstall.fetch.installs = rest := by
  rw [hm, State.makeInstall_eq]
  exact FetchUnit.release_installKey { s.fetch with installs := rest } i

theorem State.makeWaitingInstall_of_notInstalling (s : State) (h : ∀ f, (s.fetch.slot f).installKey? = none) :
    s.makeWaitingInstall = s := by
  apply s.makeWaitingInstall_of_settled
  intro f _ k hk
  rw [h f] at hk
  cases hk

/-- A third one finds nothing: at most two installs wait (R71). -/
theorem State.makeWaitingInstall_thrice (s : State) :
    s.makeWaitingInstall.makeWaitingInstall.makeWaitingInstall = s.makeWaitingInstall.makeWaitingInstall := by
  rcases s.makeWaitingInstall_cases with h | ⟨i, rest, k, ws, n, p, held, e, _, _, _, h⟩
  · rw [h, h, h]
  · obtain ⟨hi, _, _⟩ := s.makeWaitingInstall_slots i rest k ws held e h
    rcases s.makeWaitingInstall.makeWaitingInstall_cases with h2 | ⟨j, rest2, k2, ws2, n2, p2, held2, e2, _, hs2, _, h2⟩
    · rw [h2, h2]
    · obtain ⟨hj, ho2, _⟩ := s.makeWaitingInstall.makeWaitingInstall_slots j rest2 k2 ws2 held2 e2 h2
      have hne : i ≠ j := by
        rintro rfl
        rw [hs2] at hi
        cases hi
      apply State.makeWaitingInstall_of_notInstalling
      intro f
      by_cases hf : f = j
      · rw [hf]
        exact hj
      · have hfi : f = i := (by decide : ∀ a b c : FetchIx, a ≠ b → c ≠ b → c = a) i j f hne hf
        rw [hfi, ho2 i hne]
        exact hi

/-- The state in which an event is taken: no entry can receive a waiting install (R71). -/
theorem State.settle_settled (s : State) (hr : s.resetActive = false) (h : s.cache.Ok) : s.settle.Settled := by
  have hok := s.settle_cacheOk h
  have hfix : s.settle.makeWaitingInstall = s.settle := by
    unfold State.settle
    rw [if_neg (by simp [hr])]
    exact s.makeWaitingInstall_thrice
  intro f hf k hk
  rw [← Cache.choose_none_iff _ _ hok]
  rcases he : s.settle.cache.choose k with _ | e
  · rfl
  · rcases hs : s.settle.fetch.slot f with _ | _ | ⟨k', ws, n, p, held⟩
    · rw [hs] at hk
      cases hk
    · rw [hs] at hk
      cases hk
    · rw [hs] at hk
      cases hk
      rcases hl : s.settle.fetch.installs with _ | ⟨g, rest⟩
      · rw [hl] at hf
        cases hf
      · rw [hl] at hf
        cases hf
        have hm := State.makeWaitingInstall_of_some _ _ _ _ _ _ _ _ _ hl hs he
        have := (State.makeWaitingInstall_slots _ _ _ _ _ _ _ hm).2.2
        rw [hfix, hl] at this
        exact absurd this (by simp)

/-- An event is taken as from the state that the making of the oldest waiting install leaves. -/
theorem State.settle_makeWaitingInstall (s : State) (hr : s.resetActive = false) :
    s.makeWaitingInstall.settle = s.settle := by
  unfold State.settle
  rw [s.makeWaitingInstall_frame.resetActive, if_neg (by simp [hr]), if_neg (by simp [hr]),
    s.makeWaitingInstall_thrice]

end Sys2Proof.Machine
end

