-- ==== Sys2Proof/Laws/FetchLists.lean ====
section
/-! SUPPORT. The lists of the fetch unit: each operation keeps the askings and the waiting installs true of the slots. -/

namespace Sys2Proof.Machine

theorem FetchUnit.reset_listed : FetchUnit.reset.AsksListed ∧ FetchUnit.reset.InstallsListed := by
  unfold FetchUnit.AsksListed FetchUnit.InstallsListed
  exact ⟨by decide, by decide⟩

/-! ## One slot replaced -/

/-- A slot replaced by one that asks as it did. -/
theorem FetchUnit.setSlot_asksListed (u : FetchUnit) (i : FetchIx) (x : FetchSlot) (h : u.AsksListed)
    (hx : x.isAsking = (u.slot i).isAsking) : (u.setSlot i x).AsksListed := by
  refine ⟨h.1, fun f => ?_⟩
  have : ((u.setSlot i x).slot f).isAsking = (u.slot f).isAsking := by
    by_cases hf : i = f
    · subst hf
      simp [FetchUnit.setSlot, FetchUnit.slot, hx]
    · simp [FetchUnit.setSlot, FetchUnit.slot, hf]
  rw [this]
  exact h.2 f

/-- A slot replaced by one that holds an install as it did. -/
theorem FetchUnit.setSlot_installsListed (u : FetchUnit) (i : FetchIx) (x : FetchSlot) (h : u.InstallsListed)
    (hx : x.installKey? = none ↔ (u.slot i).installKey? = none) : (u.setSlot i x).InstallsListed := by
  refine ⟨h.1, fun f => ?_⟩
  have : ((u.setSlot i x).slot f).installKey? = none ↔ (u.slot f).installKey? = none := by
    by_cases hf : i = f
    · subst hf
      simpa [FetchUnit.setSlot, FetchUnit.slot] using hx
    · simp [FetchUnit.setSlot, FetchUnit.slot, hf]
  rw [ne_eq, this]
  exact h.2 f

/-- A slot that has not been asking asks from now on, behind the others (R86, R91, R95). -/
theorem FetchUnit.asks_snoc (u : FetchUnit) (i : FetchIx) (k : Key) (ws : List Waiter) (ov : Bool) (n : Nat)
    (h : u.AsksListed) (hi : (u.slot i).isAsking = false) :
    FetchUnit.AsksListed { u with slots := poke u.slots i (.reading k ws ov n .asking), asks := u.asks ++ [i] } := by
  have hm : i ∉ u.asks := by
    rw [h.2 i, hi]
    simp
  refine ⟨?_, fun f => ?_⟩
  · simp only [List.nodup_append, h.1, List.nodup_singleton, List.mem_singleton, true_and]
    rintro a ha b rfl rfl
    exact hm ha
  · by_cases hf : i = f
    · subst hf
      simp [FetchUnit.slot, FetchSlot.isAsking]
    · have hs : f ∈ u.asks ++ [i] ↔ f ∈ u.asks := by simp [Ne.symm hf]
      simp only [FetchUnit.slot, peek_poke, if_neg hf]
      rw [hs]
      exact h.2 f

/-! ## The operations -/

/-- A freed slot that was not asking (R89). -/
theorem FetchUnit.release_asksListed (u : FetchUnit) (i : FetchIx) (h : u.AsksListed)
    (hi : (u.slot i).isAsking = false) : (u.release i).AsksListed := by
  unfold FetchUnit.release
  split
  · exact u.setSlot_asksListed i .idle h hi.symm
  · exact FetchUnit.asks_snoc _ i _ _ false 1 h hi

/-- A freed slot that is not among the waiting installs. -/
theorem FetchUnit.release_installsListed (u : FetchUnit) (i : FetchIx)
    (h : u.installs.Nodup ∧ i ∉ u.installs ∧ ∀ f, f ≠ i → (f ∈ u.installs ↔ (u.slot f).installKey? ≠ none)) :
    (u.release i).InstallsListed := by
  obtain ⟨hk, ho, hl⟩ := u.release_installKey i
  refine ⟨by rw [hl]; exact h.1, fun f => ?_⟩
  rw [hl]
  by_cases hf : f = i
  · subst hf
    rw [hk]
    simp [h.2.1]
  · rw [ho f hf]
    exact h.2.2 f hf

/-- A miss that is placed (R87). -/
theorem FetchUnit.placeMiss_listed (u : FetchUnit) (k : Key) (w : Waiter) (ha : u.AsksListed) (hi : u.InstallsListed) :
    (u.placeMiss k w).AsksListed ∧ (u.placeMiss k w).InstallsListed := by
  unfold FetchUnit.placeMiss
  split
  · rename_i i _
    refine ⟨u.setSlot_asksListed i _ ha ?_, u.setSlot_installsListed i _ hi ?_⟩
    · rcases u.slot i with _ | ⟨_, _, _, _, ph⟩ | _
      · rfl
      · cases ph <;> rfl
      · rfl
    · rcases u.slot i with _ | _ | _ <;> exact Iff.rfl
  · split
    · rename_i i hf
      have hidle : u.slot i = .idle := by
        rw [find_allFetchSlots] at hf
        exact (FetchSlot.isIdle_iff _).mp hf.1
      refine ⟨FetchUnit.asks_snoc u i k [w] false 1 ha (by rw [hidle]; rfl), ?_⟩
      exact u.setSlot_installsListed i _ hi (by rw [hidle]; exact Iff.rfl)
    · exact ⟨ha, hi⟩

/-- A slot that was READING, phase QUEUED, asks again (R95). -/
theorem FetchUnit.reissue_listed (u : FetchUnit) (i : FetchIx) (k : Key) (ws : List Waiter) (n : Nat)
    (ha : u.AsksListed) (hi : u.InstallsListed) (hs : (u.slot i).isAsking = false) (hn : (u.slot i).installKey? = none) :
    (u.reissue i k ws n).AsksListed ∧ (u.reissue i k ws n).InstallsListed :=
  ⟨FetchUnit.asks_snoc u i k ws false (n + 1) ha hs,
    u.setSlot_installsListed i _ hi (by rw [hn]; exact ⟨fun _ => rfl, fun _ => rfl⟩)⟩

end Sys2Proof.Machine
end

