-- ==== Sys2Proof/Laws/Link.lean ====
section
/-! SUPPORT. The end of a command frame: when it is judged, and what it does when it is not. -/

namespace Sys2Proof.Machine

theorem State.judges_iff (s : State) (code : Byte) :
    s.judges code = true ↔ s.resetActive = false ∧
      (s.engine.phase = .receiving code ∨
        ((s.engine.phase = .idle ∨ ∃ r b, s.engine.phase = .complete r b) ∧ s.engine.link ≠ .ignored code)) := by
  rcases h : s.engine.phase with _ | c | c | ⟨r, b⟩ <;> simp [State.judges, h]

/-- A frame that is judged (R168, R170). -/
theorem State.frameEnd_of_judges (s : State) (code : Byte) (need : Nat) (args : List Byte) (run : State → State)
    (h : s.judges code = true) : s.frameEnd code need args run = s.judgeFrame code need args run := by
  rw [State.judges_iff] at h
  obtain ⟨hr, h⟩ := h
  unfold State.frameEnd
  rw [if_neg (by simp [hr])]
  rcases h with h | ⟨h | ⟨r, b, h⟩, hl⟩
  · simp [h]
  · simp [h, hl]
  · simp [h, hl]

/-- A judged frame that is long enough is executed on the state in which the engine has received it. -/
theorem State.frameEnd_of_run (s : State) (code : Byte) (need : Nat) (args : List Byte) (run : State → State)
    (h : s.judges code = true) (hn : need ≤ args.length) :
    s.frameEnd code need args run = run (s.receive code) := by
  rw [State.frameEnd_of_judges _ _ _ _ _ h, State.judgeFrame, if_neg (by omega)]

/-- A judged frame that is too short (R168). -/
theorem State.frameEnd_of_short (s : State) (code : Byte) (need : Nat) (args : List Byte) (run : State → State)
    (h : s.judges code = true) (hn : args.length < need) :
    s.frameEnd code need args run = (s.receive code).finish .shortFrame [] := by
  rw [State.frameEnd_of_judges _ _ _ _ _ h, State.judgeFrame, if_pos hn]

theorem State.frameEnd_of_reset (s : State) (code : Byte) (need : Nat) (args : List Byte) (run : State → State)
    (h : s.resetActive = true) : s.frameEnd code need args run = s.endIgnored := by
  simp [State.frameEnd, h]

/-- While a command executes, a frame that is ignored ends, and a whole frame is refused as busy (R171; log 8). -/
theorem State.frameEnd_of_executing (s : State) (code : Byte) (need : Nat) (args : List Byte) (run : State → State)
    (l : LongCommand) (hr : s.resetActive = false) (h : s.engine.phase = .executing l) :
    s.frameEnd code need args run = if s.engine.link = .ignored code then s.endIgnored else s.refuseBusy .quiet := by
  simp [State.frameEnd, hr, h]

/-- A frame that is neither judged nor met by an executing command changes at most the engine. -/
theorem State.frameEnd_of_not_judges (s : State) (code : Byte) (need : Nat) (args : List Byte) (run : State → State)
    (h : s.judges code = false) :
    s.frameEnd code need args run = s ∨ s.frameEnd code need args run = s.endIgnored ∨
      s.frameEnd code need args run = s.refuseBusy .quiet := by
  unfold State.frameEnd
  split
  · exact .inr (.inl rfl)
  · rename_i hr
    have hr : s.resetActive = false := by simpa using hr
    split
    · rename_i c hc
      split
      · rename_i hcc
        simp [State.judges, hr, hc, hcc] at h
      · exact .inl rfl
    · split
      · exact .inr (.inl rfl)
      · exact .inr (.inr rfl)
    · rename_i hc
      split
      · exact .inr (.inl rfl)
      · rename_i hl
        simp [State.judges, hr, hc, hl] at h
    · rename_i r b hc
      split
      · exact .inr (.inl rfl)
      · rename_i hl
        simp [State.judges, hr, hc, hl] at h

/-! ## Arguments -/

theorem originatorArg_cons (b : Byte) (more : List Byte) (o : Originator) (h : b.toNat = o.val) :
    originatorArg (b :: more) 0 = some o := by
  have : arg (b :: more) 0 = o.val := h
  simp [originatorArg, this]

theorem originatorArg_above (b : Byte) (more : List Byte) (h : 3 < b.toNat) : originatorArg (b :: more) 0 = none := by
  have : arg (b :: more) 0 = b.toNat := rfl
  simp only [originatorArg, this]
  rw [dif_neg (by omega)]

theorem keyArg_cons (b0 b1 : Byte) (more : List Byte) (o : Originator) (w : Window) (h0 : b0.toNat = o.val)
    (h1 : b1.toNat = w.val) : keyArg (b0 :: b1 :: more) = some { org := o, win := w } := by
  have e0 : arg (b0 :: b1 :: more) 0 = o.val := h0
  have e1 : arg (b0 :: b1 :: more) 1 = w.val := h1
  simp only [keyArg, e0, e1]
  rw [dif_pos ⟨o.isLt, w.isLt⟩]

theorem keyArg_above (b0 b1 : Byte) (more : List Byte) (h : 3 < b0.toNat ∨ 63 < b1.toNat) :
    keyArg (b0 :: b1 :: more) = none := by
  have e0 : arg (b0 :: b1 :: more) 0 = b0.toNat := rfl
  have e1 : arg (b0 :: b1 :: more) 1 = b1.toNat := rfl
  simp only [keyArg, e0, e1]
  rw [dif_neg (by omega)]

end Sys2Proof.Machine
end

