-- ==== Sys2Proof/Laws/Log.lean ====
section
/-! SUPPORT. The fault log: what an offer does, and that every operation keeps the numbering. -/

namespace Sys2Proof.Machine

/-! ## What an offer does (TABLE 41) -/

theorem FaultLog.offer_nil (l : FaultLog) (f : FaultInfo) (h : l.records = []) : l.offer f = l.storeOrDrop f := by
  simp [FaultLog.offer, h]

theorem FaultLog.offer_snoc (l : FaultLog) (f : FaultInfo) (older : List FaultRecord) (r : FaultRecord)
    (h : l.records = older ++ [r]) :
    l.offer f = if r.info.sameFault f = true then l.merge r else l.storeOrDrop f := by
  simp [FaultLog.offer, h]

theorem FaultLog.storeOrDrop_of_room (l : FaultLog) (f : FaultInfo) (h : l.records.length < logCapacity) :
    l.storeOrDrop f = l.store f := by simp [FaultLog.storeOrDrop, h]

theorem FaultLog.storeOrDrop_of_full (l : FaultLog) (f : FaultInfo) (h : logCapacity ≤ l.records.length) :
    l.storeOrDrop f = l.drop := by simp [FaultLog.storeOrDrop, Nat.not_lt.mpr h]

/-- An offer leaves the attention mask. -/
@[simp] theorem FaultLog.offer_mask (l : FaultLog) (f : FaultInfo) : (l.offer f).mask = l.mask := by
  unfold FaultLog.offer FaultLog.storeOrDrop FaultLog.store FaultLog.drop FaultLog.merge
  split
  · split
    · rfl
    · split <;> rfl
  · split <;> rfl

/-! ## The numbering (R143) -/

theorem FaultLog.reset_ok : FaultLog.reset.Ok :=
  ⟨by decide, fun k h => absurd h (by simp [FaultLog.reset])⟩

theorem FaultLog.store_ok (l : FaultLog) (f : FaultInfo) (h : l.Ok) (hl : l.records.length < logCapacity) :
    (l.store f).Ok := by
  refine ⟨?_, ?_⟩
  · simp only [FaultLog.store, List.length_append, List.length_singleton]
    omega
  · intro k hk
    simp only [FaultLog.store, List.length_append, List.length_singleton] at hk ⊢
    by_cases hlt : k < l.records.length
    · have := h.2 k hlt
      rw [List.getElem_append_left hlt, ← this]
      rw [show l.records.length + 1 - k = (l.records.length - k) + 1 by omega, BitVec.ofNat_add, ← BitVec.add_assoc]
      rfl
    · have hk' : k = l.records.length := by omega
      subst hk'
      simp

theorem FaultLog.drop_ok (l : FaultLog) (h : l.Ok) : l.drop.Ok := h

/-- A log whose records carry the numbers of another, place by place, keeps the numbering. -/
theorem FaultLog.ok_of_seqs (l l' : FaultLog) (h : l.Ok)
    (hr : l'.records.map FaultRecord.seq = l.records.map FaultRecord.seq) (hn : l'.nextSeq = l.nextSeq) : l'.Ok := by
  have hlen : l'.records.length = l.records.length := by simpa using congrArg List.length hr
  refine ⟨by rw [hlen]; exact h.1, ?_⟩
  intro k hk
  have hk' : k < l.records.length := hlen ▸ hk
  have hs : (l'.records[k]'hk).seq = (l.records[k]'hk').seq := by
    have := List.getElem_of_eq hr (i := k) (by simpa using hk)
    simpa using this
  rw [hs, hlen, hn]
  exact h.2 k hk'

theorem FaultLog.merge_ok (l : FaultLog) (r : FaultRecord) (h : l.Ok) (hr : l.records.getLast? = some r) :
    (l.merge r).Ok := by
  obtain ⟨older, ho⟩ := List.getLast?_eq_some_iff.mp hr
  refine FaultLog.ok_of_seqs l _ h ?_ rfl
  simp [FaultLog.merge, ho]

/-- Every offer keeps the numbering. -/
theorem FaultLog.offer_ok (l : FaultLog) (f : FaultInfo) (h : l.Ok) : (l.offer f).Ok := by
  have hsd : (l.storeOrDrop f).Ok := by
    by_cases hl : l.records.length < logCapacity
    · rw [FaultLog.storeOrDrop_of_room l f hl]
      exact l.store_ok f h hl
    · rw [FaultLog.storeOrDrop_of_full l f (Nat.not_lt.mp hl)]
      exact l.drop_ok h
  unfold FaultLog.offer
  split
  · rename_i r hr
    split
    · exact l.merge_ok r h hr
    · exact hsd
  · exact hsd

theorem FaultLog.pop_ok (l : FaultLog) (h : l.Ok) : l.pop.Ok := by
  refine ⟨?_, ?_⟩
  · simp only [FaultLog.pop, List.length_tail]
    exact Nat.le_trans (Nat.sub_le ..) h.1
  · intro k hk
    simp only [FaultLog.pop, List.length_tail] at hk ⊢
    have := h.2 (k + 1) (by omega)
    rw [← this, List.getElem_tail]
    congr 2
    omega

theorem FaultLog.clear_ok (l : FaultLog) : l.clear.Ok :=
  ⟨by simp [FaultLog.clear], fun k h => absurd h (by simp [FaultLog.clear])⟩

theorem FaultLog.afterSoftReset_ok (l : FaultLog) (n : Nat) : (l.afterSoftReset n).Ok := by
  refine ⟨by simp [FaultLog.afterSoftReset, logCapacity], ?_⟩
  intro k hk
  simp only [FaultLog.afterSoftReset, List.length_singleton] at hk ⊢
  have : k = 0 := by omega
  subst this
  rfl

/-- Writing the attention mask keeps the numbering. -/
theorem FaultLog.setMask_ok (l : FaultLog) (m : BitVec 20) (h : l.Ok) : FaultLog.Ok { l with mask := m } := h

end Sys2Proof.Machine
end

