-- ==== Sys2Proof/WellFormed.lean ====
section
/-! DEFINITION. Which commands are well formed: the operands that the row's own rule admits. -/

namespace Sys2Proof

/-- No beat takes more than 255 extend periods (TABLE 32, R126). -/
def extendsInRange (x : Nat) : Bool := decide (x ≤ 255)

/-- Well-formedness of a command: the extend periods of a beat row are at most 255 (R126), the code of
UNKNOWN_COMMAND is not in TABLE 47 (R168), and the code of CODE_BYTE_WHOLE is that of a command frame, not of a
STATUS frame (R168, R170). Argument bytes are free: a frame may be too short, too long or out of range, and the part
says what it does with it (R168, R172). -/
def Instr.wellFormed : Instr → Bool
  | .forwardReadComplete x => extendsInRange x
  | .writeOperationComplete x => extendsInRange x
  | .tableReadComplete x => extendsInRange x
  | .beatComplete x => extendsInRange x
  | .unknownCommand c => codeUnknown c
  | .codeByteWhole c => decide (c ≠ statusCode)
  | .admission _ => true
  | .responsePresented => true
  | .responseDeparture => true
  | .resolutionTurn => true
  | .forwardReadEntry => true
  | .forwardWriteEntry => true
  | .tableReadEntry => true
  | .statusWriteEntry => true
  | .recoveryExpiry => true
  | .waitingInstallMade => true
  | .extendLimitExpiry => true
  | .resetAsserted => true
  | .resetReleased => true
  | .status => true
  | .readWord _ => true
  | .writeWord _ => true
  | .writeAttentionMask _ => true
  | .writeTimingRecord _ _ => true
  | .getContext _ => true
  | .setContext _ => true
  | .originatorOn _ => true
  | .originatorOff _ => true
  | .suspend _ => true
  | .resume _ => true
  | .releaseQuarantine _ => true
  | .invalidate _ => true
  | .invalidateOriginator _ => true
  | .invalidateStamp _ => true
  | .invalidateAll _ => true
  | .pin _ => true
  | .unpin _ => true
  | .cacheRead _ => true
  | .probe _ => true
  | .logHead _ => true
  | .logPop _ => true
  | .logClear _ => true
  | .engage _ => true
  | .softReset _ => true

end Sys2Proof
end

