-- ==== Sys2Proof/Tests/Slice0.lean ====
section
/-! SUPPORT. Tests: ill-formed commands that the check refuses, one step of each command on a small state with the values
of the manual's examples, and for every claim with hypotheses a state that meets them. -/

namespace Sys2Proof.Tests

open Sys2Proof.Machine Sys2Proof.Claims

/-! ## Well-formedness -/

theorem test_wf_rejects_forwardReadComplete : Instr.wellFormed (.forwardReadComplete 256) = false := by decide
theorem test_wf_rejects_writeOperationComplete : Instr.wellFormed (.writeOperationComplete 256) = false := by decide
theorem test_wf_rejects_tableReadComplete : Instr.wellFormed (.tableReadComplete 256) = false := by decide
theorem test_wf_rejects_beatComplete : Instr.wellFormed (.beatComplete 256) = false := by decide
theorem test_wf_rejects_unknownCommand_of_a_known_code : Instr.wellFormed (.unknownCommand 0x02) = false := by decide
theorem test_wf_rejects_codeByteWhole_of_STATUS : Instr.wellFormed (.codeByteWhole 0x01) = false := by decide
theorem test_wf_admits_the_longest_extension : Instr.wellFormed (.beatComplete 255) = true := by decide

/-- No word spells a command (log 23). -/
theorem test_no_word_spells_a_command : decodeTableWord 8 0x02 = none := by decide

/-! ## Small states -/

/-- The state after a command; no command ends otherwise. -/
def after (c : Instr) (s : State) : State :=
  match exec c s with
  | .next t => t
  | .fault _ => s
  | .refused _ => s

/-- The descriptor of TABLE 9. -/
def table9 : Descriptor := { b0 := 0x57, b1 := 0x00, b2 := 0x12, b3 := 0x00, b4 := 0x01, b5 := 0x3C, b6 := 0xFF }

/-- The key (1, 3). -/
def key13 : Key := { org := 1, win := 3 }

/-- The context of originator 1 in section 1.10, with a refusal limit of 1. -/
def context1 : Context :=
  { state := .active, tableTarget := 2, tableBase := 0x40, windowCount := 8, limit := 1, count := 0 }

/-- A context table with one context in it. -/
def having (o : Originator) (c : Context) (s : State) : State := { s with contexts := poke s.contexts o c }

/-- The part in RUN with originator 1 ACTIVE. -/
def running : State := having 1 context1 { State.reset with mode := .run }

/-- An access of originator 1. -/
def access1 (kind : AccessKind) (size : AccessSize) (addr : Addr) : Access :=
  { org := 1, kind := kind, size := size, addr := addr }

/-- A request held in a slot, the youngest of its originator. -/
def hold (i : SlotIx) (a : Access) (d : Option Data) (st : Stage) (s : State) : State :=
  { s with intake := { s.intake with
      slots := poke s.intake.slots i (.held a d st)
      orders := poke s.intake.orders a.org (s.order a.org ++ [i]) } }

/-- An entry held at the front of the recency list, with its place in the asking order. -/
def caching (i : EntryIx) (e : Entry) (s : State) : State :=
  { s with cache :=
      { entries := poke s.cache.entries i e
        recency := i :: s.cache.recency
        asking := if e.hasMarks = true then s.cache.asking ++ [i] else s.cache.asking } }

/-- A fetch slot in use. -/
def fetching (f : FetchIx) (x : FetchSlot) (s : State) : State := { s with fetch := s.fetch.setSlot f x }

/-- A timing record of one target. -/
def timed (t : Target) (r : Timing) (s : State) : State :=
  { s with port := { s.port with timing := poke s.port.timing t r } }

/-- The timing records of TABLE 36. -/
def table36 (s : State) : State :=
  timed 1 { width := .w16, accessWait := 2, recovery := 1, extendLimit := 4 }
    (timed 2 { width := .w8, accessWait := 0, recovery := 1, extendLimit := 8 } s)

/-- One operation in the queue, started. -/
def queued (op : MemOp) (s : State) : State := { s with port := s.port.enter op }

/-- The forwarded write O1 of section 7.7. -/
def o1 : MemOp :=
  { place := { target := 1, addr := 0x120301 }, key := key13
    body := .forwardWrite (access1 .write .four 0x0C0301) [0x11, 0x22, 0x33, 0x44] }

/-- A read of one byte on target 2 for slot 0. -/
def readOne : MemOp :=
  { place := { target := 2, addr := 0x20 }, key := key13, body := .forwardRead (access1 .read .one 0x0C0020) 0 }

/-- The status write O3 of section 7.7. -/
def o3 : MemOp := { place := { target := 2, addr := 0x801F }, key := key13, body := .statusWrite 0x01 }

/-- A table read of the descriptor of (1, 3) for fetch slot 0. -/
def tableRead : MemOp := { place := { target := 2, addr := 0x8018 }, key := key13, body := .tableRead 0 }

/-- The last beat of an operation, with `bytes` gathered before it. -/
def lastBeatOf (bytes : List Byte) (b : Beat) (op : MemOp) (s : State) : State :=
  { s with port := { s.port with
      queue := [op]
      current := some { timing := peek s.port.timing op.place.target, gathered := bytes, beat := b, rest := [],
                        phase := .address } } }

/-- The last beat of a one-byte operation at address `a` of an 8-bit target. -/
def oneByteBeat (a : Addr) : Beat := { ma := a, lane0 := true, lane1 := false }

/-- A slot in READING, phase QUEUED, for (1, 3). -/
def reading13 (ws : List Waiter) (ov : Bool) (n : Nat) : FetchSlot :=
  .reading key13 ws ov n (.queued { target := 2, addr := 0x8018 })

/-- The first seven bytes of TABLE 9. -/
def first7 : List Byte := [0x57, 0x00, 0x12, 0x00, 0x01, 0x3C, 0xFF]

/-- The last beat of the table read of (1, 3), with waiters. -/
def fetched (bytes : List Byte) (ws : List Waiter) (ov : Bool) (n : Nat) (s : State) : State :=
  lastBeatOf bytes (oneByteBeat 0x801F) tableRead (fetching 0 (reading13 ws ov n) (table36 s))

/-- A command frame that is being received. -/
def receiving (code : Byte) (s : State) : State := { s with engine := { s.engine with phase := .receiving code } }

/-- A log record. -/
def record (n : BitVec 16) (c : Cause) : FaultRecord :=
  { seq := n
    info := { cause := c, org := some 2, access := some (.read, .four, 0x041000), window := some 1, stamp := some 7
              place := none, detail := none }
    repeats := 0 }

/-- A state whose log holds these records. -/
def logging (l : List FaultRecord) (s : State) : State := { s with log := { s.log with records := l, nextSeq := 1 } }

/-- Result bytes 0 and on of the engine. -/
def resultBytesOf (n : Nat) (s : State) : List Byte := s.engine.phase.bytes.toList.take n

/-! ## One step of each command -/

theorem test_admission :
    (after (.admission (some { org := 1, kindCode := 3, sizeCode := 2, addr := 0x0C0100, wdata := 5 })) running).slot 0 =
      .held (access1 .read .four 0x0C0100) none .queued := by decide

theorem test_responsePresented :
    (after .responsePresented
      (hold 3 (access1 .read .one 0) none (.answerReady none (.refused .noWindow)) running)).intake.presented =
      some 3 := by decide

theorem test_responseDeparture :
    (after .responseDeparture (after .responsePresented
      (hold 3 (access1 .read .one 0) none (.answerReady none (.refused .noWindow)) running))).slot 3 = .free := by
  decide

/-- The first row of TABLE 10. -/
theorem test_resolutionTurn_hit :
    (after .resolutionTurn (hold 0 (access1 .write .four 0x0C0100) (some 0x11223344) .queued
      (caching 0 (.valid key13 false table9 0 .empty) running))).slot 0 =
      .held (access1 .write .four 0x0C0100) (some 0x11223344)
        (.resolved { place := { target := 1, addr := 0x120100 }, swap := true, key := key13 }) := by decide

/-- The last row of TABLE 10; with a refusal limit of 1 the originator is quarantined. -/
theorem test_resolutionTurn_no_window :
    ((after .resolutionTurn (hold 0 (access1 .read .four 0x200000) none .queued running)).log.records.map fun r =>
      r.info.cause) = [.noWindow, .quarantineEntered] := by decide

theorem test_table10_rights : table9.evaluate (access1 .fetch .two 0x0C0200) = .fail .rights := by decide
theorem test_table10_limit : table9.evaluate (access1 .read .four 0x0CFFFE) = .fail .limit := by decide
theorem test_table7_swap : placedBytes true .two 0xAABB = [0xAA, 0xBB] := by decide
theorem test_table9_is_well_formed : judgeBytes (first7 ++ [0]) = .valid table9 0 := by decide

theorem test_forwardReadEntry :
    (after .forwardReadEntry (hold 0 (access1 .read .four 0x0C0100) none
      (.resolved { place := { target := 1, addr := 0x120100 }, swap := true, key := key13 }) running)).port.queue.length =
      1 := by decide

/-- The write posted at O1's entry in section 7.7. -/
theorem test_forwardWriteEntry :
    (after .forwardWriteEntry (hold 0 (access1 .write .four 0x0C0301) (some 0x11223344)
      (.resolved { place := { target := 1, addr := 0x120301 }, swap := true, key := key13 }) running)).port.queue =
      [o1] := by decide

/-- The address of O2 in section 7.7, for window 3. -/
theorem test_tableReadEntry :
    (after .tableReadEntry { running with
      fetch := running.fetch.begin 0 key13 [.request 0] }).port.queue = [tableRead] := by decide

/-- The value and address of O3 in section 7.7. -/
theorem test_statusWriteEntry :
    (after .statusWriteEntry
      (caching 0 (.valid key13 false table9 0 { used := true, written := false }) running)).port.queue = [o3] := by
  decide

theorem test_recoveryExpiry :
    ((after .recoveryExpiry { running with port := { running.port with
      queue := [readOne], recovery := Vector.replicate 4 2 } }).port.current.map fun pr => pr.phase) =
      some .address := by decide

/-- The first beat of TABLE 37. -/
theorem test_beatComplete_memory :
    (after (.beatComplete 0) (queued o1 (table36 running))).byteOf { target := 1, addr := 0x120301 } = 0x11 := by decide

/-- The second beat of TABLE 37 follows. -/
theorem test_beatComplete_next_address : (after (.beatComplete 0) (queued o1 (table36 running))).port.ma = 0x120302 := by
  decide

theorem test_forwardReadComplete :
    (after (.forwardReadComplete 0) (lastBeatOf [] (oneByteBeat 0x20) readOne (table36
      (hold 0 (access1 .read .one 0x0C0020) none
        (.issued { place := { target := 2, addr := 0x20 }, swap := false, key := key13 }) running)))).slot 0 =
      .held (access1 .read .one 0x0C0020) none
        (.answerReady (some { place := { target := 2, addr := 0x20 }, swap := false, key := key13 })
          (.done (some 0))) := by decide

theorem test_writeOperationComplete :
    (after (.writeOperationComplete 1)
      (lastBeatOf [] (oneByteBeat 0x801F) o3 (table36 running))).byteOf { target := 2, addr := 0x801F } = 0x01 := by
  decide

/-- TABLE 9 read: entry 0 is filled. -/
theorem test_tableReadComplete :
    (after (.tableReadComplete 0) (fetched first7 [] false 1 running)).cache.entry 0 =
      .valid key13 false table9 0 .empty := by decide

/-- O1 fails with POSTED_WRITE_LOST. -/
theorem test_extendLimitExpiry :
    ((after .extendLimitExpiry (queued o1 (table36 running))).log.records.map fun r => r.info.cause) =
      [.postedWriteLost] := by decide

theorem test_waitingInstallMade :
    (after .waitingInstallMade { fetching 1 (.installing key13 [] 1 { target := 2, addr := 0x8018 } .absent) running with
      fetch := { (fetching 1 (.installing key13 [] 1 { target := 2, addr := 0x8018 } .absent) running).fetch with
        installs := [1] } }).cache.entry 0 = .absent key13 false := by decide

theorem test_resetAsserted : (after .resetAsserted running).mode = .boot := by decide
theorem test_resetReleased : (after .resetReleased { running with resetActive := true }).resetActive = false := by decide

/-- The status byte of H2 in section 10.7. -/
theorem test_status :
    (after .status { running with
      engine := { running.engine with phase := .executing (.pin key13) } }).msdo true 1 = some 0x06 := by decide

/-- MSDO is released with MSSEL, and while the reset input is active (R167, R174). -/
theorem test_msdo_released :
    (after .status running).msdo false 1 = none ∧ (after .resetAsserted (after .status running)).msdo true 1 = none ∧
      running.msdo true 1 = some 0 := by decide

theorem test_unknownCommand :
    (after (.unknownCommand 0x27) running).engine.phase.lastResult = 0x09 := by decide
theorem test_codeByteWhole : (after (.codeByteWhole 0x25) running).engine.phase = .receiving 0x25 := by decide
theorem test_codeByteWhole_in_reset :
    (after (.codeByteWhole 0x25) { running with resetActive := true }).engine.link = .ignored 0x25 := by decide
theorem test_readWord_identity : resultBytesOf 4 (after (.readWord [0]) running) = [0x16, 0x04, 0x01, 0x00] := by decide

/-- B1 of TABLE 58. -/
theorem test_writeWord_timing :
    peek (after (.writeWord [3, 0x00, 0x02, 0x01, 0x20]) State.reset).port.timing 0 =
      { width := .w8, accessWait := 2, recovery := 1, extendLimit := 32 } := by decide

theorem test_writeTimingRecord_same :
    after (.writeTimingRecord 0 [0x00, 0x02, 0x01, 0x20]) State.reset =
      after (.writeWord [3, 0x00, 0x02, 0x01, 0x20]) State.reset := by decide

/-- B7 of TABLE 58. -/
theorem test_writeAttentionMask :
    (after (.writeAttentionMask [0xFF, 0x3F, 0x0F, 0x00]) State.reset).log.mask = 0xF3FFF := by decide

theorem test_getContext : resultBytesOf 7 (after (.getContext [1]) running) = [1, 2, 0x40, 0, 8, 1, 0] := by decide

/-- B2 of TABLE 58. -/
theorem test_setContext :
    (after (.setContext [0, 0, 0x10, 0x00, 4, 0]) State.reset).context 0 =
      { state := .off, tableTarget := 0, tableBase := 0x10, windowCount := 4, limit := 0, count := 0 } := by decide

theorem test_originatorOn :
    ((after (.originatorOn [1]) (having 1 { context1 with state := .off } running)).context 1).state = .active := by
  decide
theorem test_originatorOff : ((after (.originatorOff [1]) running).context 1).state = .off := by decide
theorem test_suspend_drains :
    (after (.suspend [1]) (hold 2 (access1 .read .one 0) none .queued running)).engine.phase =
      .executing (.suspend 1 [2]) := by decide
theorem test_resume :
    ((after (.resume [1]) (having 1 { context1 with state := .suspended } running)).context 1).state = .active := by
  decide
theorem test_releaseQuarantine :
    (after (.releaseQuarantine [1]) (having 1 { context1 with state := .quarantined, count := 1 } running)).context 1 =
      context1 := by decide
theorem test_invalidate_pinned :
    (after (.invalidate [1, 3]) (caching 5 (.valid key13 true table9 0 .empty) running)).cache.entry 5 = .stale key13 := by
  decide
theorem test_invalidateOriginator :
    resultBytesOf 1 (after (.invalidateOriginator [1]) (caching 5 (.absent key13 false) running)) = [1] := by decide
theorem test_invalidateStamp :
    (after (.invalidateStamp [0x3C]) (caching 5 (.valid key13 false table9 0 .empty) running)).cache.entry 5 = .free := by
  decide
theorem test_invalidateAll :
    (after (.invalidateAll []) (caching 5 (.valid key13 false table9 0 .empty) running)).cache.recency = [] := by decide
theorem test_pin_hit :
    resultBytesOf 3 (after (.pin [1, 3]) (caching 12 (.valid key13 false table9 0 .empty) running)) = [12, 1, 1] := by
  decide

/-- H6 of section 10.7: one byte short. -/
theorem test_unpin_short_frame : (after (.unpin [1]) running).engine.phase.lastResult = 0x08 := by decide
theorem test_unpin_stale : (after (.unpin [1, 3]) (caching 5 (.stale key13) running)).cache.entry 5 = .free := by decide
theorem test_cacheRead :
    resultBytesOf 14 (after (.cacheRead [5]) (caching 5 (.valid key13 true table9 0x80 { used := true, written := true })
      running)) = [1, 1, 3, 1, 0, 0x57, 0x00, 0x12, 0x00, 0x01, 0x3C, 0xFF, 0x80, 3] := by decide

/-- The third row of TABLE 10 as a PROBE. -/
theorem test_probe :
    resultBytesOf 10 (after (.probe [1, 0, 2, 0x01, 0x03, 0x0C])
      (caching 5 (.valid key13 false table9 0 .empty) running)) =
      [0, 0, 1, 0x01, 0x03, 0x12, 1, 3, 0x3C, 1] := by decide

theorem test_logHead :
    resultBytesOf 18 (after (.logHead []) (logging [record 0 .limit] running)) =
      [0, 0, 8, 0x0F, 2, 0, 4, 0x00, 0x10, 0x04, 1, 7, 0, 0, 0, 0, 0, 0] := by decide
theorem test_logPop : (after (.logPop []) (logging [record 0 .limit] running)).log.records = [] := by decide
theorem test_logClear : (after (.logClear []) (logging [record 0 .limit] running)).log.nextSeq = 1 := by decide
theorem test_engage_switches :
    (after (.engage []) (having 0 { context1 with tableTarget := 0 } State.reset)).mode = .run := by decide
theorem test_softReset_keeps_one_record :
    ((after (.softReset []) running).log.records.map fun r => r.info.cause) = [.resetDone] := by decide

/-- TABLE 37 has three beats, TABLE 33 for 4 bytes at an odd address. -/
theorem test_table37_beats : (beatsOf .w16 0x120301 4).map (fun b => (b.ma, b.lane0, b.lane1)) =
    [(0x120300, false, true), (0x120302, true, true), (0x120304, true, false)] := by decide

/-- L2 and L3 of section 8.8. -/
theorem test_log_merges : ((logging [record 0 .limit] running).log.offer (record 0 .limit).info).records.map
    FaultRecord.repeats = [1] := by decide
theorem test_log_stores : ((logging [record 0 .limit] running).log.offer (record 0 .rights).info).nextSeq = 2 := by decide

/-! ## States that meet the hypotheses of the claims: invariants -/

/-- A read of originator 1 in the first window, as slots hold it. -/
def someRead : Access := access1 .read .one 0x20

/-- The translation under which slots are held below. -/
def someTranslation : Translation := { place := { target := 2, addr := 0x20 }, swap := false, key := key13 }

/-- A state with a byte in memory, a request, a pinned entry, a log record and a queued operation. -/
def busy : State :=
  queued readOne (hold 0 someRead none (.issued someTranslation)
    (caching 5 (.valid key13 true table9 0 .empty) (logging [record 0 .limit]
      { running with mem := [(0x20, 0x55)] })))

theorem witness_step_answers : ∃ t, step busy = .next t := ⟨busy.tick, rfl⟩

theorem witness_StepKeepsMemoryCanonical : busy.MemoryOk := by unfold State.MemoryOk; decide

theorem witness_StepKeepsMemoryPort : busy.port.Ok := by
  refine ⟨by decide, by decide, by decide, by decide, by decide, ?_⟩
  intro pr h
  have hp : busy.port.current.isNone = false := by decide
  have : ∀ x, busy.port.current = some x → x.timing.extendLimit ≠ 0 ∧ x.phase = .address := by
    intro x hx
    have : busy.port.current = some
        { timing := .boot, gathered := [], beat := oneByteBeat 0x20, rest := [], phase := .address } := by decide
    rw [this] at hx
    cases hx
    decide
  obtain ⟨h1, h2⟩ := this pr h
  refine ⟨h1, ?_⟩
  rw [h2]
  trivial

theorem witness_StepKeepsLogNumbering : busy.log.Ok := by unfold FaultLog.Ok; decide

theorem witness_StepKeepsIntake : busy.IntakeOk := by unfold State.IntakeOk; decide

theorem witness_StepKeepsCacheLists : busy.cache.Ok := by unfold Cache.Ok; decide

theorem witness_StepKeepsKeysUnique : running.KeysOk := by
  refine ⟨?_, ?_, ?_, ?_⟩
  · intro i j k h
    have : ∀ i, (running.cache.entry i).key? = none := by decide
    rw [this i] at h
    cases h
  · intro f g k h
    have : ∀ f, (running.fetch.slot f).key? = none := by decide
    rw [this f] at h
    cases h
  · intro f k h
    have : ∀ f, (running.fetch.slot f).key? = none := by decide
    rw [this f] at h
    cases h
  · intro a h
    have : running.fetch.waitList = [] := by decide
    rw [this] at h
    cases h

theorem witness_StepKeepsSequenceCommand : running.SequenceOk := by unfold State.SequenceOk; decide

theorem witness_StepKeepsPins : running.PinsOk := by
  refine ⟨by decide, ?_, .inl (by decide)⟩
  intro k h
  have : running.engine.phase = .idle := by decide
  rw [this] at h
  cases h

/-! ## The tick -/

theorem witness_EmptyQueueStep_idle :
    running.pending = [] ∧ running.resetActive = false ∧ running.port.current = none ∧ running.port.queue = [] := by
  decide

/-- A beat of O1 in a wait period with one more to come, and in its strobe period. -/
def o1In (ph : BeatPhase) (rest : List Beat) : State :=
  { table36 running with port := { (table36 running).port with
      queue := [o1]
      current := some { timing := peek (table36 running).port.timing 1, gathered := []
                        beat := { ma := 0x120300, lane0 := false, lane1 := true }, rest := rest, phase := ph } } }

theorem witness_EmptyQueueStep_wait :
    (o1In (.wait 2) []).pending = [] ∧ (o1In (.wait 2) []).resetActive = false ∧
      (o1In (.wait 2) []).port.queue = [o1] ∧
      (o1In (.wait 2) []).port.current.map (fun pr => pr.phase) = some (.wait 2) := by decide

/-- An address period whose record has two wait periods follows; no install waits. -/
theorem witness_EmptyQueueStep_address :
    (o1In .address []).fetch.installs = [] ∧
      (o1In .address []).port.current.map (fun pr => (pr.phase, pr.timing.accessWait)) = some (.address, 2) := by decide

theorem witness_EmptyQueueStep_strobe :
    (o1In .strobe [oneByteBeat 0]).port.current.map (fun pr => (pr.phase, pr.rest)) =
        some (.strobe, [oneByteBeat 0]) ∧
      (o1In .strobe []).port.current.map (fun pr => (pr.phase, pr.rest)) = some (.strobe, []) := by decide

/-! ## Front port -/

/-- Three slots of originator 1, and then a fourth. -/
def three : State :=
  hold 2 someRead none .queued (hold 1 someRead none .queued (hold 0 someRead none .queued running))
def four : State := hold 3 someRead none .queued three

theorem witness_Admission_takes :
    three.resetActive = false ∧ three.sequence.inReset = false ∧
      ((List.finRange 8).filter fun j => (three.slot j).heldBy 1).length = 3 ∧ three.slot 3 = .free ∧
      ∀ j < (3 : SlotIx), three.slot j ≠ .free := by decide

theorem witness_Admission_waits :
    4 ≤ ((List.finRange 8).filter fun j => (four.slot j).heldBy 1).length ∧
      ({ four with waiting := some { org := 1, kindCode := 0, sizeCode := 0, addr := 0, wdata := 0 } } : State).waiting =
        some { org := 1, kindCode := 0, sizeCode := 0, addr := 0, wdata := 0 } := by decide

/-- The only prepared response is that of the last originator from the pointer. -/
def answered : State :=
  hold 4 { someRead with org := 3 } none (.answerReady none (.refused .originatorOff))
    (hold 0 someRead none .queued running)

theorem witness_ResponsePresented :
    answered.resetActive = false ∧ answered.intake.presented = none ∧
      (3 : Originator) = answered.intake.responsePtr + 3 ∧ answered.order 3 = 4 :: [] ∧
      (answered.slot 4).isAnswered = true ∧
      ∀ k' < (3 : Fin 4), ∀ j, (answered.order (answered.intake.responsePtr + k')).head? = some j →
        (answered.slot j).isAnswered = false := by decide

theorem witness_ResponsePresented_none :
    ∀ o j, (three.order o).head? = some j → (three.slot j).isAnswered = false := by decide

/-- The response of slot 4 presented. -/
def presenting : State := after .responsePresented answered

theorem witness_Departure :
    presenting.resetActive = false ∧ presenting.sequence = .none ∧ presenting.intake.presented = some 4 ∧
      presenting.slot 4 = .held { someRead with org := 3 } none (.answerReady none (.refused .originatorOff)) := by decide

/-- A sequence with its command executing. -/
def sequencing (q : Sequence) (c : LongCommand) (s : State) : State :=
  { s with sequence := q, engine := { s.engine with phase := .executing c } }

/-- The same during a soft reset, before the memory release. -/
theorem witness_Departure_in_reset :
    (sequencing .resetMemory .softReset presenting).sequence ≠ .engaging ∧
      (sequencing .resetMemory .softReset presenting).sequence ≠ .resetAnswer ∧
      (sequencing .resetMemory .softReset presenting).fetch.installs = [] ∧
      (sequencing .resetMemory .softReset presenting).intake.presented = some 4 := by decide

/-- One response presented, with nothing else held. -/
def lastResponse : State :=
  after .responsePresented (hold 4 someRead none (.answerReady none (.refused .bootRange)) running)

theorem witness_LastResponse_engage :
    (sequencing .engaging .engage lastResponse).intake.presented = some 4 ∧
      (∀ j, j ≠ 4 → ((sequencing .engaging .engage lastResponse).slot j).pastResolution = false) ∧
      ((sequencing .engaging .engage (hold 5 someRead none (.resolved someTranslation) lastResponse)).slot
        5).pastResolution = true := by decide

theorem witness_LastResponse_reset :
    (sequencing .resetAnswer .softReset lastResponse).intake.presented = some 4 ∧
      (∀ j, j ≠ 4 → (sequencing .resetAnswer .softReset lastResponse).slot j = .free) ∧
      (sequencing .resetAnswer .softReset (hold 5 someRead none .queued lastResponse)).slot 5 ≠ .free := by decide

/-! ## Resolution -/

theorem witness_StepsFourToSix : table9.wellFormed = true ∧
    table9.evaluate (access1 .read .two 0x0C0301) =
      .pass { place := { target := 1, addr := 0x120301 }, swap := true, key := key13 } := by decide

theorem witness_TurnsWithheld :
    three.oldestQueued 1 = some 0 ∧ three.oldestQueued 2 = none ∧ ∀ o, running.eligible o = false := by decide

/-- One request of an originator in BOOT and in RUN. -/
def bootRequest (o : Originator) : State := hold 0 { someRead with org := o } none .queued State.reset
def runRequest (a : Access) : State := hold 0 a none .queued running

theorem witness_BootTurn (o : Originator) : TurnOf (bootRequest o) o 0 { someRead with org := o } none ∧
    (bootRequest o).mode = .boot := by
  unfold TurnOf State.Settled
  revert o
  decide

/-- The turn of originator 1 under a context. -/
theorem witness_RunTurn_refused :
    TurnOf (runRequest (access1 .read .four 0x200000)) 1 0 (access1 .read .four 0x200000) none ∧
      (runRequest (access1 .read .four 0x200000)).mode = .run ∧
      ((runRequest (access1 .read .four 0x200000)).context 1).windowCount.val ≤ windowNumber 0x200000 := by
  unfold TurnOf State.Settled
  decide

theorem witness_RunTurn_refused_at_step_one :
    TurnOf (having 1 { context1 with state := .off } (runRequest someRead)) 1 0 someRead none ∧
      TurnOf (having 1 { context1 with state := .quarantined } (runRequest someRead)) 1 0 someRead none := by
  unfold TurnOf State.Settled
  exact ⟨by decide, by decide⟩

/-- A request whose lookup hits entry 0. -/
def hitRequest (e : Entry) : State := caching 0 e (runRequest (access1 .read .two 0x0C0301))

theorem witness_RunTurn_hit :
    TurnOf (hitRequest (.valid key13 false table9 0 .empty)) 1 0 (access1 .read .two 0x0C0301) none ∧
      ((hitRequest (.valid key13 false table9 0 .empty)).context 1).state = .active ∧
      windowNumber 0x0C0301 < ((hitRequest (.valid key13 false table9 0 .empty)).context 1).windowCount.val ∧
      (hitRequest (.valid key13 false table9 0 .empty)).cache.find key13 = some 0 ∧
      (hitRequest (.absent key13 false)).cache.find key13 = some 0 := by
  unfold TurnOf State.Settled
  decide

theorem witness_RunTurn_miss :
    TurnOf (runRequest (access1 .read .two 0x0C0301)) 1 0 (access1 .read .two 0x0C0301) none ∧
      (runRequest (access1 .read .two 0x0C0301)).cache.find key13 = none := by
  unfold TurnOf State.Settled
  decide

/-- A fetch unit with slot 0 in use, and one with both slots in use. -/
def oneFetch : FetchUnit := FetchUnit.reset.setSlot 0 (reading13 [] false 1)
def twoFetches : FetchUnit := oneFetch.setSlot 1 (.reading { org := 2, win := 0 } [] false 1 .asking)

/-- A fetch whose install waits takes another waiter too. -/
theorem witness_placeMiss_attach :
    oneFetch.slot 0 = .reading key13 [] false 1 (.queued { target := 2, addr := 0x8018 }) ∧
      (oneFetch.setSlot 1 (.installing { org := 3, win := 1 } [] 1 { target := 2, addr := 0 } .absent)).slot 1 =
        .installing { org := 3, win := 1 } [] 1 { target := 2, addr := 0 } .absent ∧
      (∀ g < (1 : FetchIx), (oneFetch.slot g).key? ≠ some { org := 3, win := 1 }) := by decide

theorem witness_placeMiss :
    (oneFetch.slot 0).key? = some key13 ∧ (∀ f, (oneFetch.slot f).key? ≠ some { org := 3, win := 1 }) ∧
      oneFetch.slot 1 = .idle ∧ (∀ g < (1 : FetchIx), oneFetch.slot g ≠ .idle) ∧
      (∀ f, (twoFetches.slot f).key? ≠ some { org := 3, win := 1 }) ∧ ∀ f, twoFetches.slot f ≠ .idle := by decide

/-! ## Entry to the memory queue -/

/-- A RESOLVED slot of originator 1. -/
def offering (a : Access) (d : Option Data) : State := hold 0 a d (.resolved someTranslation) running

theorem witness_EntryArbiter_closed :
    8 ≤ ({ running.port with queue := List.replicate 8 readOne } : Port).queue.length ∧
      (sequencing .resetMemory .softReset running).sequence.inReset = true := by decide

theorem witness_EntryArbiter_forward :
    (offering someRead none).fetch.asks = [] ∧ (offering someRead none).statusOffer = none ∧
      (1 : Originator) = (offering someRead none).port.forwardPtr + 1 ∧ Offers (offering someRead none) 1 0 ∧
      ∀ k' < (1 : Fin 4), ∀ j, ¬ Offers (offering someRead none) ((offering someRead none).port.forwardPtr + k') j := by
  refine ⟨by decide, by decide, by decide, ⟨by decide, someRead, none, _, rfl, by decide⟩, ?_⟩
  rintro k' hk j ⟨h, -⟩
  revert k' j
  decide

/-- The offering originator already has `n` forwarded operations in the queue. -/
def offeringWith (n : Nat) : State :=
  { offering someRead none with port := { running.port with queue := List.replicate n readOne } }

/-- The bound of R43 at its two sides: with three queued the slot is offered, with four it is not, and nothing is
granted. -/
theorem test_forwardOffer_bound :
    (offeringWith 3).forwardOffer 1 = some 0 ∧ (offeringWith 4).forwardOffer 1 = none ∧
      (offeringWith 3).grant = some (.forward 1 0) ∧ (offeringWith 4).grant = none := by decide

theorem witness_EntryArbiter_idle :
    (offeringWith 4).Settled ∧ (offeringWith 4).fetch.asks = [] ∧ (offeringWith 4).statusOffer = none ∧
      (offeringWith 4).port.queue.length < 8 ∧ (∀ o i, ¬ Offers (offeringWith 4) o i) ∧
      (∀ f, (offeringWith 4).grant ≠ some (.tableRead f)) ∧ ∀ e, (offeringWith 4).grant ≠ some (.statusWrite e) := by
  refine ⟨by unfold State.Settled; decide, by decide, by decide, by decide, ?_, by decide, by decide⟩
  rintro o i ⟨h, a, d, st, hs, hq⟩
  have only : ∀ o i, ((offeringWith 4).order o).find? (fun j => ((offeringWith 4).slot j).isResolved) = some i →
      o = 1 ∧ i = 0 := by decide
  obtain ⟨rfl, rfl⟩ := only o i h
  cases hs
  revert hq
  decide

/-- A granted read is no write, and a granted write no read: the row of the other kind changes nothing. -/
theorem witness_EntryArbiter_otherKind :
    (offering someRead none).Settled ∧
      ((offering someRead none).slot 0 = .held someRead none (.resolved someTranslation) ∧ someRead.kind ≠ .write) ∧
      (offering (access1 .write .one 0x0C0020) (some 7)).Settled ∧
      (offering (access1 .write .one 0x0C0020) (some 7)).grant = some (.forward 1 0) := by
  unfold State.Settled
  decide

/-- Two originators with one table, an entry of one with marks and a table read of the other in the queue (R113). -/
def sharing : State :=
  fetching 1 (.reading { org := 3, win := 3 } [] false 1 (.queued { target := 2, addr := 0x8018 }))
    (having 3 context1 (caching 5 (.valid key13 false table9 0 { used := true, written := false }) running))

theorem witness_EntryArbiter_deferred :
    sharing.cache.asking = [] ++ 5 :: [] ∧ sharing.deferred 5 = true ∧ sharing.statusOffer = none ∧
      (caching 5 (.valid key13 false table9 0 { used := true, written := false }) running).deferred 5 = false := by
  decide

theorem witness_ForwardReadEnters :
    Granted (offering someRead none) (.forward 1 0) ∧
      (offering someRead none).slot 0 = .held someRead none (.resolved someTranslation) ∧ someRead.kind ≠ .write := by
  unfold Granted State.Settled
  decide

theorem witness_ForwardWriteEnters :
    Granted (offering (access1 .write .one 0x0C0020) (some 7)) (.forward 1 0) ∧
      (offering (access1 .write .one 0x0C0020) (some 7)).slot 0 =
        .held (access1 .write .one 0x0C0020) (some 7) (.resolved someTranslation) := by
  unfold Granted State.Settled
  decide

/-- A waiting install, listed. -/
def waitingInstall (n : Nat) : State :=
  { running with fetch :=
      { running.fetch.setSlot 1 (.installing key13 [.request 0] n { target := 2, addr := 0x8018 } (.valid table9 0)) with
        installs := [1] } }

theorem witness_InstallsListed :
    (waitingInstall 4).fetch.InstallsListed ∧
      (∀ f, exhausted (Cover.byStamp 0x3C) ((waitingInstall 4).fetch.slot f) = false) ∧
      exhausted (Cover.byStamp 0x3C) ((waitingInstall 5).fetch.slot 1) = true := by
  unfold FetchUnit.InstallsListed
  decide

/-- A fetch slot that asks for its read. -/
def asking13 : State := { running with fetch := running.fetch.begin 0 key13 [.request 0] }

theorem witness_TableReadEnters :
    Granted asking13 (.tableRead 0) ∧ asking13.fetch.slot 0 = .reading key13 [.request 0] false 1 .asking := by
  unfold Granted State.Settled
  decide

/-- Entries 5 and 6 of section 6.7 before S3, and a held install of a sharer. -/
def sharedMarks : State :=
  caching 5 (.valid key13 false table9 0 { used := true, written := true })
    (caching 6 (.valid { org := 3, win := 3 } false table9 0 { used := true, written := false })
      (having 3 context1 running))

theorem witness_StatusWriteEnters :
    Granted sharedMarks (.statusWrite 6) ∧
      sharedMarks.cache.entry 6 = .valid { org := 3, win := 3 } false table9 0 { used := true, written := false } := by
  unfold Granted State.Settled
  decide

/-! ## Memory port -/

theorem witness_HeadStarts :
    ({ running.port with queue := [readOne] } : Port).current = none ∧
      peek ({ running.port with queue := [readOne] } : Port).recovery readOne.place.target = 0 ∧
      (beatsOf .w8 readOne.place.addr.toNat readOne.length) = [oneByteBeat 0x20] := by decide

/-- The head operation waits for its target. -/
def recovering : State :=
  { running with port := { running.port with queue := [readOne], recovery := Vector.replicate 4 3 } }

theorem witness_RecoveryExpiry :
    recovering.resetActive = false ∧ recovering.port.current = none ∧ recovering.port.queue = [readOne] ∧
      peek recovering.port.recovery readOne.place.target = 3 := by decide

/-- Its count after one period is not 0; a count of 1 comes to 0. -/
theorem witness_EmptyQueueStep_recovering :
    BitVec.ofNat 2 ((peek recovering.port.recovery 2).toNat - 1) ≠ 0 ∧ BitVec.ofNat 2 ((1 : BitVec 2).toNat - 1) = 0 ∧
      recovering.fetch.installs = [] ∧ recovering.pending = [] := by decide

/-- O1 started: 4 periods to the end of its first beat, as in TABLE 37. -/
theorem witness_BeatComplete :
    (queued o1 (table36 running)).port.queue = [o1] ∧
      ((queued o1 (table36 running)).port.current.map fun pr => (pr.rest.length, pr.periodsToEnd 0)) =
        some (2, some 4) := by decide

/-- The progress of the last beat of a one-byte operation on target 2 of TABLE 36: 2 + X periods, X up to 8. -/
def lastProgress (bytes : List Byte) (a : Addr) : Progress :=
  { timing := { width := .w8, accessWait := 0, recovery := 1, extendLimit := 8 }, gathered := bytes
    beat := oneByteBeat a, rest := [], phase := .address }

/-- A read in progress for slot 0, which is ISSUED. -/
def readInProgress : State :=
  lastBeatOf [] (oneByteBeat 0x20) readOne (table36 (hold 0 someRead none (.issued someTranslation) running))

theorem witness_ForwardReadCompletes :
    LastBeat readInProgress (lastProgress [] 0x20) readOne [] 8 10 ∧ readInProgress.sequence ≠ .resetMemory ∧
      readInProgress.slot 0 = .held someRead none (.issued someTranslation) := by
  unfold LastBeat State.Settled
  decide

/-- A status write in progress, at its one beat. -/
def writeInProgress : State := lastBeatOf [] (oneByteBeat 0x801F) o3 (table36 running)

theorem witness_WriteCompletes :
    LastBeat writeInProgress (lastProgress [] 0x801F) o3 [] 0 2 ∧ writeInProgress.sequence ≠ .resetMemory ∧
      o3.isWrite = true := by
  unfold LastBeat State.Settled
  decide

theorem witness_ExtendLimit :
    (lastProgress [] 0x20).periodsToAbandon = some 9 ∧ readInProgress.port.current = some (lastProgress [] 0x20) ∧
      writeInProgress.port.current = some (lastProgress [] 0x801F) ∧
      (queued o1 (table36 running)).port.queue = [o1] ∧
      ((queued o1 (table36 running)).port.current.map fun pr => pr.periodsToAbandon) = some (some 7) := by decide

/-- Each kind of operation at a beat that can be abandoned. -/
theorem witness_Abandons :
    Abandons readInProgress (lastProgress [] 0x20) readOne [] 9 ∧
      Abandons writeInProgress (lastProgress [] 0x801F) o3 [] 9 := by
  unfold Abandons State.Settled
  exact ⟨by decide, by decide⟩

theorem witness_Abandons_tableRead :
    Abandons (fetched first7 [.request 0] false 1 running) (lastProgress first7 0x801F) tableRead [] 9 := by
  unfold Abandons State.Settled
  decide

/-- The same operations in RESET_MEMORY. -/
def readInReset : State := sequencing .resetMemory .softReset readInProgress
def writeInReset : State := sequencing .resetMemory .softReset writeInProgress

theorem witness_MemoryRelease_read :
    readInReset.sequence = .resetMemory ∧ LastBeat readInReset (lastProgress [] 0x20) readOne [] 0 2 ∧
      readInReset.slot 0 = .held someRead none (.issued someTranslation) := by
  unfold LastBeat State.Settled
  decide

theorem witness_MemoryRelease_write :
    writeInReset.sequence = .resetMemory ∧ LastBeat writeInReset (lastProgress [] 0x801F) o3 [] 0 2 ∧
      (∀ i, writeInReset.slot i = .free) ∧ (hold 0 someRead none .queued writeInReset).slot 0 ≠ .free := by
  unfold LastBeat State.Settled
  decide

theorem witness_MemoryRelease_tableRead :
    LastBeat (hold 0 someRead none .waitFetch
      (sequencing .resetMemory .softReset (fetched first7 [.request 0] false 1 running)))
      (lastProgress first7 0x801F) tableRead [] 0 2 := by
  unfold LastBeat State.Settled
  decide

/-- A posted write of one byte at its one beat, in RESET_MEMORY. -/
def postedInReset : State :=
  sequencing .resetMemory .softReset (lastBeatOf [] (oneByteBeat 0x20)
    { readOne with body := .forwardWrite (access1 .write .one 0x0C0020) [7] } (table36 running))

theorem witness_MemoryRelease_failures :
    Abandons readInReset (lastProgress [] 0x20) readOne [] 9 ∧
      Abandons writeInReset (lastProgress [] 0x801F) o3 [] 9 ∧
      Abandons postedInReset (lastProgress [] 0x20)
        { readOne with body := .forwardWrite (access1 .write .one 0x0C0020) [7] } [] 9 := by
  unfold Abandons State.Settled
  exact ⟨by decide, by decide, by decide⟩

theorem witness_MemoryRelease_tableRead_fails :
    Abandons (sequencing .resetMemory .softReset (fetched first7 [.request 0] false 1 running))
      (lastProgress first7 0x801F) tableRead [] 9 := by
  unfold Abandons State.Settled
  decide

/-! ## The end of a fetch -/

/-- The bytes of section 1.10 make a VALID install into the lowest FREE entry. -/
theorem witness_FetchInstalls :
    LastBeat (fetched first7 [.request 0] false 1 running) (lastProgress first7 0x801F) tableRead [] 8 10 ∧
      (fetched first7 [.request 0] false 1 running).sequence.inReset = false ∧
      (fetched first7 [.request 0] false 1 running).fetch.slot 0 = reading13 [.request 0] false 1 ∧
      judgeBytes (first7 ++ beatBytes (fetched first7 [.request 0] false 1 running) tableRead (oneByteBeat 0x801F)) =
        .valid table9 0 ∧
      (∀ e', (fetched first7 [.request 0] false 1 running).cache.entry e' ≠ .stale key13) ∧
      (fetched first7 [.request 0] false 1 running).cache.entry 0 = .free := by
  unfold LastBeat State.Settled
  decide

theorem witness_FetchInstalls_judged :
    judgeBytes [0x56, 0, 0x12, 0, 1, 0x3C, 0xFF, 0] = .absent ∧
      judgeBytes [0x57, 0, 0x12, 0, 1, 0x3C, 0xFE, 0] = .malformed 0x3C := by decide

theorem witness_FetchEnds_overtaken :
    LastBeat (fetched first7 [.request 0] true 4 running) (lastProgress first7 0x801F) tableRead [] 0 2 ∧
      (fetched first7 [.request 0] true 4 running).fetch.slot 0 = reading13 [.request 0] true 4 ∧
      LastBeat (fetched first7 [.request 0] true 5 running) (lastProgress first7 0x801F) tableRead [] 0 2 ∧
      (fetched first7 [.request 0] true 5 running).fetch.slot 0 = reading13 [.request 0] true 5 := by
  unfold LastBeat State.Settled
  exact ⟨by decide, by decide, by decide, by decide⟩

/-- With byte 6 one lower the CHECK test fails. -/
theorem witness_FetchEnds_malformed :
    LastBeat (fetched [0x57, 0, 0x12, 0, 1, 0x3C, 0xFE] [] false 1 running)
      (lastProgress [0x57, 0, 0x12, 0, 1, 0x3C, 0xFE] 0x801F) tableRead [] 0 2 ∧
      judgeBytes ([0x57, 0, 0x12, 0, 1, 0x3C, 0xFE] ++
        beatBytes (fetched [0x57, 0, 0x12, 0, 1, 0x3C, 0xFE] [] false 1 running) tableRead (oneByteBeat 0x801F)) =
        .malformed 0x3C := by
  unfold LastBeat State.Settled
  decide

theorem witness_Receiver_stale : Receiver (caching 5 (.stale key13) running).cache key13 5 := .inl (by decide)

theorem witness_Receiver_free : Receiver (caching 0 (.absent key13 false) running).cache { org := 3, win := 3 } 1 := by
  refine .inr (.inl ⟨?_, by decide⟩)
  decide

/-- A cache with sixteen entries, all pinned but one. -/
def full (unpinned : Option EntryIx) : Cache :=
  { entries := Vector.ofFn fun i =>
      .absent { org := 2, win := Fin.ofNat 64 i.val } (decide (unpinned ≠ some i))
    recency := allEntries, asking := [] }

theorem witness_Receiver_victim : Receiver (full (some 14)) key13 14 := by
  refine .inr (.inr ⟨by decide, by decide, [0, 1, 2, 3, 4, 5, 6, 7, 8, 9, 10, 11, 12, 13], [15], by decide, by decide, ?_⟩)
  decide

/-- A completed read beside a cache whose sixteen entries are all pinned. -/
def crowded : State := { fetched first7 [.request 0] false 1 running with cache := full none }

theorem witness_InstallWaits :
    LastBeat crowded (lastProgress first7 0x801F) tableRead [] 0 2 ∧
      crowded.fetch.slot 0 = reading13 [.request 0] false 1 ∧
      judgeBytes (first7 ++ beatBytes crowded tableRead (oneByteBeat 0x801F)) = .valid table9 0 ∧
      ∀ e, crowded.cache.entry e ≠ .stale key13 ∧ crowded.cache.entry e ≠ .free ∧
        (crowded.cache.entry e).evictable = false := by
  unfold LastBeat State.Settled
  decide

/-- An install that waits beside that cache: nothing can receive it. -/
def stuck : State := { waitingInstall 4 with cache := full none }

theorem witness_Settled : stuck.Settled ∧ ¬ (waitingInstall 4).Settled := by
  unfold State.Settled
  exact ⟨by decide, by decide⟩

/-- A frame is received beside it. -/
theorem witness_Receives_stuck (code : Byte) : Receives stuck code :=
  ⟨by decide, witness_Settled.1, .inr ⟨.inl (by decide), by
    have : stuck.engine.link = .quiet := by decide
    rw [this]
    simp⟩⟩

/-- A waiting install that can be made comes before any other row, also before a turn (R71). -/
theorem test_install_is_made_first :
    (after .resolutionTurn (waitingInstall 1)).cache.entry 0 = .valid key13 false table9 0 .empty := by decide

theorem witness_InstallMadeAtOnce :
    (waitingInstall 1).pending = [] ∧ (waitingInstall 1).cache.Ok ∧
      (after .waitingInstallMade (waitingInstall 1)).fetch.installs = [] := by
  unfold Cache.Ok
  decide

theorem witness_StepKeepsFetchLists :
    asking13.FetchListsOk ∧ stuck.FetchListsOk ∧ asking13.SequenceOk ∧ stuck.SequenceOk := by
  unfold State.FetchListsOk FetchUnit.AsksListed FetchUnit.InstallsListed State.SequenceOk
  exact ⟨by decide, by decide, by decide, by decide⟩

theorem witness_PinAmong :
    PinAmong { running with engine := { running.engine with phase := .executing (.pin key13) } } [.command] :=
  ⟨by simp, key13, rfl⟩

theorem witness_WaitingInstall :
    (waitingInstall 1).resetActive = false ∧ (waitingInstall 1).fetch.installs = [1] ∧
      (∀ e', (waitingInstall 1).cache.entry e' ≠ .stale key13) ∧ (waitingInstall 1).cache.entry 0 = .free ∧
      (waitingInstall 1).fetch.slot 1 =
        .installing key13 [.request 0] 1 { target := 2, addr := 0x8018 } (.valid table9 0) := by decide

theorem witness_WakeDecides :
    (hold 0 (access1 .read .two 0x0C0301) none .waitFetch running).slot 0 =
        .held (access1 .read .two 0x0C0301) none .waitFetch ∧
      table9.evaluate (access1 .fetch .two 0x0C0200) = .fail .rights := by decide

/-- One counted refusal brings the count to the limit, and one does not; in BOOT none counts. -/
theorem witness_Counts :
    Counts running 1 .rights ∧ raisedCount (running.context 1) = (running.context 1).limit ∧
      raisedCount ((having 1 { context1 with limit := 2 } running).context 1) ≠ 2 ∧ ¬ Counts State.reset 1 .rights := by
  unfold Counts
  decide

/-! ## Frames -/

/-- Every code is received by an engine as it stands after reset, when no install waits; the engine that is receiving it
receives it too. -/
theorem witness_Receives (s : State) (code : Byte) (hr : s.resetActive = false) (he : s.engine = Engine.reset)
    (hi : s.fetch.installs = []) : Receives s code ∧ Receives (receiving code s) code :=
  ⟨⟨hr, s.settled_of_none hi, .inr ⟨.inl (by rw [he]; rfl), by rw [he]; simp [Engine.reset]⟩⟩,
    ⟨hr, State.settled_of_none _ hi, .inl rfl⟩⟩

/-- So are the frames of the states used below, and of `running`. -/
theorem witness_Receives_here :
    running.resetActive = false ∧ running.engine = Engine.reset ∧ three.engine = Engine.reset ∧
      (hitRequest (.valid key13 false table9 0 .empty)).engine = Engine.reset ∧
      readInProgress.engine = Engine.reset ∧
      (caching 5 (.stale key13) running).engine = Engine.reset ∧
      (having 0 context1 State.reset).engine = Engine.reset ∧
      running.fetch.installs = [] ∧ three.fetch.installs = [] ∧
      (hitRequest (.valid key13 false table9 0 .empty)).fetch.installs = [] ∧ readInProgress.fetch.installs = [] ∧
      (caching 5 (.stale key13) running).fetch.installs = [] := by decide

theorem witness_unknown_code : (0x27 : Byte) ∉ ([0x01, 0x02, 0x03, 0x08, 0x09, 0x10, 0x11, 0x12, 0x13, 0x14, 0x20, 0x21,
    0x22, 0x23, 0x24, 0x25, 0x26, 0x28, 0x30, 0x31, 0x32, 0x3A, 0x3F] : List Byte) := by decide

theorem witness_Frame_busy :
    (sequencing .engaging .engage running).engine.phase = .executing .engage ∧
      (sequencing .engaging .engage running).engine.link = .quiet := by decide

/-- A frame that is being ignored while the engine is IDLE, and while it holds a result. -/
theorem witness_Frame_ignored :
    EndsFrame (.unknownCommand 0x27) 0x27 ∧ EndsFrame (.logHead []) 0x30 ∧
      (after (.codeByteWhole 0x27) { running with resetActive := true }).engine.phase = .idle ∧
      (after (.codeByteWhole 0x27) { running with resetActive := true }).engine.link = .ignored 0x27 ∧
      { (after (.unknownCommand 0x27) running).engine with link := .ignored 0x30 }.phase.lastResult = 0x09 :=
  ⟨.inr ⟨rfl, by decide⟩, .inl ⟨0, [], rfl⟩, by decide, by decide, by decide⟩

theorem witness_Status_reply : (after .status running).engine.link = .status running.statusReply := by decide

theorem witness_log_of_one : (logging [record 0 .limit] running).log.records = record 0 .limit :: [] := by decide

theorem witness_ResetInput :
    (receiving 0x24 running).engine.phase = .receiving 0x24 ∧
      (queued readOne running).port.queue = [readOne] := by decide

/-- Arguments at the ends of their ranges, and the first ones beyond them. -/
theorem witness_arguments :
    (3 : Byte).toNat = (3 : Originator).val ∧ 3 < (4 : Byte).toNat ∧ (63 : Byte).toNat = (63 : Window).val ∧
      63 < (64 : Byte).toNat ∧ (64 : Byte).toNat = (64 : Fin 65).val ∧ 64 < (65 : Byte).toNat ∧
      (127 : Byte).toNat ≤ 127 ∧ 127 < (128 : Byte).toNat ∧ (15 : Byte).toNat = (15 : EntryIx).val ∧
      15 < (16 : Byte).toNat := by decide

theorem witness_SetContext :
    (running.mode = .run ∧ (running.context 1).state = .active) ∧ (running.context 2).state = .off ∧
      State.reset.mode = .boot := by decide

theorem witness_Pin_no_room :
    ((List.finRange 16).filter fun e => ((full (some 14)).entry e).pinned).length = 15 ∧
      (∀ e, ((full (some 14)).entry e).pinned = true → ((full (some 14)).entry e).key? ≠ some key13) ∧
      (full (some 14)).find key13 = none ∧ (full (some 14)).find { org := 2, win := 14 } = some 14 ∧
      (∀ e, ((full (some 14)).entry e).pinned = true → ((full (some 14)).entry e).key? ≠ some { org := 2, win := 14 }) := by
  decide

theorem witness_Pin_room :
    (caching 12 (.valid key13 false table9 0 .empty) running).cache.find key13 = some 12 ∧
      (caching 12 (.absent key13 false) running).cache.find key13 = some 12 ∧ running.cache.find key13 = none ∧
      ((List.finRange 16).filter fun e => (running.cache.entry e).pinned).length < 12 := by decide

theorem witness_Unpin :
    ((caching 5 (.stale key13) running).cache.entry 5).pinned = true ∧
      ((caching 5 (.stale key13) running).cache.entry 5).key? = some key13 ∧
      (∀ e' < (5 : EntryIx), ¬ (((caching 5 (.stale key13) running).cache.entry e').pinned = true ∧
        ((caching 5 (.stale key13) running).cache.entry e').key? = some key13)) ∧
      (caching 5 (.stale key13) running).cache.Ok := by
  unfold Cache.Ok
  decide

/-- PROBE of a window at the count, below it with a hit and with a miss, and of an OFF context. -/
theorem witness_Probe :
    (running.context 1).windowCount.val ≤ windowNumber 0x200000 ∧
      windowNumber 0x0C0301 < (running.context 1).windowCount.val ∧
      (hitRequest (.valid key13 false table9 0 .empty)).cache.find key13 = some 0 ∧
      running.cache.find key13 = none ∧ (running.context 2).state = .off := by decide

theorem witness_Engage :
    (having 0 context1 State.reset).mode = .boot ∧ ((having 0 context1 State.reset).context 0).state = .active ∧
      (∀ i, ((having 0 context1 State.reset).slot i).pastResolution = false) ∧
      ((hold 0 someRead none (.issued someTranslation) (having 0 context1 State.reset)).slot 0).pastResolution = true ∧
      running.mode = .run := by decide

theorem witness_SoftReset :
    readInProgress.port.current ≠ none ∧ three.port.current = none ∧ three.slot 0 ≠ .free ∧
      ∀ i, running.slot i = .free := by decide

end Sys2Proof.Tests
end

