-- ==== Sys2Proof/Proofs/FaultLog.lean ====
section
/-! PROOFS. The fault log and the attention line: TABLE 41 and R151, from the rules of Laws/Log.lean. -/

namespace Sys2Proof.Proofs

open Sys2Proof.Machine

/-! ## What the parts of an offer say (R142 to R144) -/

/-- The comparison of R142, as four equalities. -/
theorem sameFault_iff (a b : FaultInfo) :
    a.sameFault b = true ↔
      a.cause = b.cause ∧ a.org = b.org ∧ a.window = b.window ∧ a.access.map Prod.fst = b.access.map Prod.fst := by
  simp only [FaultInfo.sameFault, Bool.and_eq_true, decide_eq_true_eq, and_assoc]

/-- A merge rewrites the newest record alone (R142). -/
theorem merge_snoc (l : FaultLog) (older : List FaultRecord) (r : FaultRecord) (h : l.records = older ++ [r]) :
    l.merge r = { l with records := older ++ [{ r with repeats := saturatingSucc r.repeats }] } := by
  simp only [FaultLog.merge, h, List.dropLast_concat]

/-- A record that does not merge is stored below the capacity and dropped at it (R143, R144). -/
theorem storeOrDrop_eq (l : FaultLog) (f : FaultInfo) :
    l.storeOrDrop f =
      if l.records.length < 16 then
        { l with records := l.records ++ [{ seq := l.nextSeq, info := f, repeats := 0 }], nextSeq := l.nextSeq + 1 }
      else { l with lost := if l.lost = 255 then 255 else l.lost + 1 } := by
  split
  case isTrue room => exact l.storeOrDrop_of_room f room
  case isFalse full => exact l.storeOrDrop_of_full f (Nat.not_lt.mp full)

/-- Settles O42: the log is empty, or its newest record is compared with the offered one. -/
theorem offerMergesStoresOrDrops : Obligations.OfferMergesStoresOrDrops := by
  intro l f
  refine ⟨fun hempty => ?_, fun older r hnewest => ?_⟩
  · rw [l.offer_nil f hempty, storeOrDrop_eq]
  · rw [l.offer_snoc f older r hnewest, merge_snoc l older r hnewest, storeOrDrop_eq]
    simp only [sameFault_iff, saturatingSucc]

/-! ## The attention line (R151) -/

/-- The level of the log is active through a held record or through the lost count. -/
theorem attention_iff (l : FaultLog) :
    l.attention = true ↔
      (∃ r ∈ l.records, l.mask.getLsbD r.info.cause.code = true) ∨ l.lost ≠ 0 ∧ l.mask.getLsbD 0 = true := by
  simp only [FaultLog.attention, Bool.or_eq_true, List.any_eq_true, Bool.and_eq_true, decide_eq_true_eq]

/-- ATN passes the level of the log on outside a pin reset. -/
theorem atn_iff (s : State) : s.atn = true ↔ s.resetActive = false ∧ s.log.attention = true := by
  simp only [State.atn, Bool.and_eq_true, Bool.not_eq_true']

/-- Settles O43: outside a pin reset ATN is the level of the log, which R151 gives by its two sources. -/
theorem attentionFollowsLogAndMask : Obligations.AttentionFollowsLogAndMask := by
  intro s
  rw [atn_iff, attention_iff]

end Sys2Proof.Proofs
end

