-- ==== Sys2Proof/Proofs/BootTurn.lean ====
section
/-! PROOFS. RESOLUTION_TURN in BOOT: R155 and R156, from the rules of Laws/Settle.lean and Laws/Refusal.lean. -/

namespace Sys2Proof.Proofs

open Sys2Proof.Machine Sys2Proof.Claims

/-! ## The slot that gets the turn (R47, R48) -/

/-- The arbiter gives the turn to the oldest QUEUED slot of the first eligible originator. -/
theorem giveTurn_eq_turn (s : State) (o : Originator) (i : SlotIx)
    (hfirst : roundRobin s.intake.turnPtr s.eligible = some o) (hold : s.oldestQueued o = some i) :
    s.giveTurn = s.turn o i := by
  simp only [State.giveTurn, hfirst, hold]

/-- RESOLUTION_TURN is the turn of the slot that `TurnOf` names: no waiting install is made before it (R71). -/
theorem exec_resolutionTurn_eq_turn (s : State) (o : Originator) (i : SlotIx) (a : Access) (d : Option Data)
    (h : TurnOf s o i a d) : exec .resolutionTurn s = .next (s.turn o i) := by
  obtain ⟨-, hsettled, -, hfirst, hold, -⟩ := h
  calc exec .resolutionTurn s = .next s.settle.giveTurn := rfl
    _ = .next s.giveTurn := by rw [s.settle_of_settled hsettled]
    _ = .next (s.turn o i) := by rw [giveTurn_eq_turn s o i hfirst hold]

/-- The state with the turn pointer behind `o` (R48). -/
def pointerBehind (s : State) (o : Originator) : State := { s with intake := { s.intake with turnPtr := o + 1 } }

theorem pointerBehind_slot (s : State) (o : Originator) (i : SlotIx) :
    (pointerBehind s o).slot i = s.slot i := rfl
theorem pointerBehind_mode (s : State) (o : Originator) : (pointerBehind s o).mode = s.mode := rfl

/-- In BOOT the turn moves the pointer behind `o` and follows the boot rules (R48, R154). -/
theorem turn_boot (s : State) (o : Originator) (i : SlotIx) (a : Access) (d : Option Data) (st : Stage)
    (hslot : s.slot i = .held a d st) (hmode : s.mode = .boot) :
    s.turn o i = (pointerBehind s o).turnBoot i a := by
  simp only [State.turn, hslot, hmode, pointerBehind]

/-! ## The boot rules (R155, R156) -/

/-- The one access that BOOT translates is originator 0's inside the first 64 KiB. -/
theorem turnBoot_eq (s : State) (i : SlotIx) (a : Access) :
    s.turnBoot i a =
      if a.org = 0 ∧ a.addr.toNat + a.size.bytes ≤ 0x10000 then s.setStage i (.resolved a.bootTranslation)
      else s.refuse i a (if a.org = 0 then .bootRange else .originatorOff) none none none := by
  by_cases horg : a.org = 0
  · simp [State.turnBoot, Access.inBootRange, horg]
  · simp [State.turnBoot, horg]

/-- A refusal counts in RUN alone (R35), so one in BOOT changes the log and its slot and no context. -/
theorem refuse_boot (s : State) (i : SlotIx) (a : Access) (d : Option Data) (st : Stage) (cause : Cause)
    (hslot : s.slot i = .held a d st) (hmode : s.mode = .boot) :
    s.refuse i a cause none none none =
      { s with
        log := s.log.offer (recordOf cause a none none none)
        intake := { s.intake with
          slots := poke s.intake.slots i (.held a d (.answerReady none (.refused cause))) } } := by
  have huncounted : (s.context a.org).counts s.mode cause = false := by simp [Context.counts, hmode]
  rw [s.refuse_of_uncounted i a cause none none none huncounted, hslot]
  rfl

/-- A slot that moves to another stage keeps its request fields (R44). -/
theorem setStage_held (s : State) (i : SlotIx) (a : Access) (d : Option Data) (st st' : Stage)
    (hslot : s.slot i = .held a d st) :
    s.setStage i st' = { s with intake := { s.intake with slots := poke s.intake.slots i (.held a d st') } } := by
  rw [State.setStage, hslot]
  rfl

/-- Settles O21: the turn of the named slot, by whether BOOT translates its access. -/
theorem bootTurnFollowsBootRules : Obligations.BootTurnFollowsBootRules := by
  intro s o i a d hturn hmode horg
  rw [exec_resolutionTurn_eq_turn s o i a d hturn]
  obtain ⟨-, -, -, -, -, hslot⟩ := hturn
  have hslot' : (pointerBehind s o).slot i = .held a d .queued := (pointerBehind_slot s o i).trans hslot
  have hmode' : (pointerBehind s o).mode = .boot := (pointerBehind_mode s o).trans hmode
  rw [turn_boot s o i a d .queued hslot hmode, turnBoot_eq, horg]
  split
  case isTrue translated => rw [setStage_held _ i a d .queued _ hslot']; rfl
  case isFalse refused => rw [refuse_boot _ i a d .queued _ hslot' hmode']; rfl

end Sys2Proof.Proofs
end

section
/-! PROOFS. What it is for an operation to keep the invariants of Safety.lean, block by block; the operations are taken one
by one below, and a step is a composition of them. -/

namespace Sys2Proof.Proofs

open Sys2Proof.Machine Sys2Proof.Claims

/-! ## Keeping the invariants -/

/-- `u` keeps what `s` has of the six invariants that look at one block each. A field is left out where the block is as
it was. -/
structure BlocksKept (s u : State) : Prop where
  memory : s.MemoryOk → u.MemoryOk := by exact id
  port : s.port.Ok → u.port.Ok := by exact id
  log : s.log.Ok → u.log.Ok := by exact id
  intake : s.IntakeOk → u.IntakeOk := by exact id
  cache : s.cache.Ok → u.cache.Ok := by exact id
  sequence : s.SequenceOk → u.SequenceOk := by exact id

/-- `u` keeps what `s` has of all nine invariants. The last three join the cache, the fetch unit and the engine, and do
not hold in the middle of the end of a fetch. -/
structure Kept (s u : State) : Prop extends BlocksKept s u where
  keys : s.KeysOk → u.KeysOk := by exact id
  pins : s.KeysOk → s.SequenceOk → s.PinsOk → u.PinsOk := by exact fun _ _ => id
  lists : s.SequenceOk → s.FetchListsOk → u.FetchListsOk := by exact fun _ => id

theorem BlocksKept.refl (s : State) : BlocksKept s s := {}

theorem Kept.refl (s : State) : Kept s s := {}

theorem BlocksKept.trans {s t u : State} (h : BlocksKept s t) (h' : BlocksKept t u) : BlocksKept s u where
  memory := h'.memory ∘ h.memory
  port := h'.port ∘ h.port
  log := h'.log ∘ h.log
  intake := h'.intake ∘ h.intake
  cache := h'.cache ∘ h.cache
  sequence := h'.sequence ∘ h.sequence

theorem Kept.trans {s t u : State} (h : Kept s t) (h' : Kept t u) : Kept s u where
  toBlocksKept := h.toBlocksKept.trans h'.toBlocksKept
  keys := h'.keys ∘ h.keys
  pins := fun hk hs hp => h'.pins (h.keys hk) (h.sequence hs) (h.pins hk hs hp)
  lists := fun hs hl => h'.lists (h.sequence hs) (h.lists hs hl)

/-! ## The engine -/

/-- The phases on which a sequence or a fetch depends: ENGAGE and SOFT_RESET executing, and PIN and PROBE. -/
def onDuty : EnginePhase → Bool
  | .executing (.pin _) => true
  | .executing (.probe _) => true
  | .executing .engage => true
  | .executing .softReset => true
  | _ => false

/-- A sequence runs only while ENGAGE or SOFT_RESET executes. -/
theorem sequence_none_of_ne (s : State) (hengage : s.engine.phase ≠ .executing .engage)
    (hreset : s.engine.phase ≠ .executing .softReset) (h : s.SequenceOk) : s.sequence = .none := by
  rcases hs : s.sequence with _ | _ | _ | _ | _ | _
  case none => rfl
  case engaging => exact absurd (h.1 hs) hengage
  all_goals exact absurd (h.2 (by rw [hs]; rfl)) hreset

theorem sequence_none_of_offDuty (s : State) (hoff : onDuty s.engine.phase = false) (h : s.SequenceOk) :
    s.sequence = .none :=
  sequence_none_of_ne s (fun he => by rw [he] at hoff; cases hoff) (fun hr => by rw [hr] at hoff; cases hoff) h

/-- A command that waits on no fetch is among no waiters. -/
theorem commandKeys_nil_of_fetchKey (s : State) (hk : s.engine.phase.fetchKey? = none) (h : s.PinsOk) :
    s.fetch.commandKeys = [] := by
  obtain ⟨-, -, hnil | ⟨k, -, hk'⟩⟩ := h
  · exact hnil
  · rw [hk] at hk'
    cases hk'

theorem fetchKey?_of_offDuty (p : EnginePhase) (hoff : onDuty p = false) : p.fetchKey? = none := by
  rcases p with _ | _ | c | _
  case executing => cases c <;> simp_all [onDuty, EnginePhase.fetchKey?]
  all_goals rfl

theorem commandKeys_nil_of_offDuty (s : State) (hoff : onDuty s.engine.phase = false) (h : s.PinsOk) :
    s.fetch.commandKeys = [] :=
  commandKeys_nil_of_fetchKey s (fetchKey?_of_offDuty _ hoff) h

/-- Outside every sequence nothing is asked of the engine. -/
theorem sequenceOk_of_none (s : State) (h : s.sequence = .none) : s.SequenceOk := by
  constructor <;> simp [h, Sequence.inReset]

/-- With no fetch waited for by the command, the pins alone matter. -/
theorem pinsOk_of_nil (s : State) (hcount : s.cache.pinCount ≤ 12) (hpin : ∀ k, s.engine.phase ≠ .executing (.pin k))
    (hnil : s.fetch.commandKeys = []) : s.PinsOk :=
  ⟨hcount, fun k hk => absurd hk (hpin k), .inl hnil⟩

/-- An engine off duty may take every phase but PIN, which also needs a place. -/
theorem kept_engine (s : State) (e : Engine) (hoff : onDuty s.engine.phase = false)
    (hpin : ∀ k, e.phase ≠ .executing (.pin k)) : Kept s { s with engine := e } where
  sequence h := sequenceOk_of_none _ (sequence_none_of_offDuty s hoff h)
  pins _ _ h := pinsOk_of_nil _ h.1 hpin (commandKeys_nil_of_offDuty s hoff h)

/-- An engine that stays in its phase. -/
theorem kept_engine_of_phase (s : State) (e : Engine) (h : e.phase = s.engine.phase) :
    Kept s { s with engine := e } where
  sequence hs := by simpa only [State.SequenceOk, h] using hs
  pins _ _ hp := by simpa only [State.PinsOk, h] using hp

theorem kept_finish (s : State) (r : ResultCode) (layout : List Byte) (hoff : onDuty s.engine.phase = false) :
    Kept s (s.finish r layout) :=
  kept_engine s _ hoff fun _ => by simp

/-! ## The log -/

theorem kept_offer (s : State) (f : FaultInfo) : Kept s (s.offer f) where
  log := FaultLog.offer_ok _ _

/-! ## The intake -/

/-- Slots that keep their owners, enter no resolution and lose no prepared answer. -/
theorem intakeOk_of_slots (s u : State) (horders : u.intake.orders = s.intake.orders)
    (hpresented : u.intake.presented = s.intake.presented)
    (howner : ∀ i o, (u.slot i).heldBy o = (s.slot i).heldBy o)
    (hresolution : ∀ i, (u.slot i).inResolution = true → (s.slot i).inResolution = true)
    (hanswered : ∀ i, (s.slot i).isAnswered = true → (u.slot i).isAnswered = true) (h : s.IntakeOk) : u.IntakeOk := by
  have horder : ∀ o, u.order o = s.order o := fun o => by rw [State.order_eq, State.order_eq, horders]
  obtain ⟨hlist, hquota, hone, hpres⟩ := h
  refine ⟨fun o => ?_, fun o => ?_, fun o i j hi hj hri hrj => ?_, fun i hi => ?_⟩
  · simpa only [horder, howner] using hlist o
  · simpa only [horder] using hquota o
  · exact hone o i j (howner i o ▸ hi) (howner j o ▸ hj) (hresolution i hri) (hresolution j hrj)
  · obtain ⟨ha, hh⟩ := hpres i (hpresented ▸ hi)
    exact ⟨hanswered i ha, by simpa only [horder] using hh⟩

/-- A slot that leaves its stage for one outside resolution, and was not answered or is so now. -/
theorem intakeOk_setStage (s : State) (i : SlotIx) (st : Stage) (h : s.IntakeOk)
    (hres : ((s.slot i).withStage st).inResolution = false)
    (hans : (s.slot i).isAnswered = true → ((s.slot i).withStage st).isAnswered = true) : (s.setStage i st).IntakeOk := by
  refine intakeOk_of_slots s _ rfl rfl (fun j o => ?_) (fun j hj => ?_) (fun j hj => ?_) h <;>
    simp only [State.setStage_slot] at *
  · split
    case isTrue hij => subst hij; cases s.slot i <;> rfl
    case isFalse => rfl
  · split at hj
    case isTrue hij => rw [hres] at hj; cases hj
    case isFalse => exact hj
  · split
    case isTrue hij => subst hij; exact hans hj
    case isFalse => exact hj

theorem withStage_inResolution (x : Slot) (st : Stage) (h : ∀ a d, (Slot.held a d st).inResolution = false) :
    (x.withStage st).inResolution = false := by
  cases x with
  | free => rfl
  | held a d _ => exact h a d

/-- An answer is given to a slot. -/
theorem intakeOk_answer (s : State) (i : SlotIx) (t : Option Translation) (r : Answer) (h : s.IntakeOk) :
    (s.setStage i (.answerReady t r)).IntakeOk := by
  refine intakeOk_setStage s i _ h (withStage_inResolution _ _ fun _ _ => rfl) fun ha => ?_
  cases hs : s.slot i with
  | free => simp [hs, Slot.isAnswered] at ha
  | held a d st => rfl

/-- A slot that has no answer becomes RESOLVED or ISSUED. -/
theorem intakeOk_resolved (s : State) (i : SlotIx) (t : Translation) (h : s.IntakeOk)
    (hans : (s.slot i).isAnswered = false) : (s.setStage i (.resolved t)).IntakeOk :=
  intakeOk_setStage s i _ h (withStage_inResolution _ _ fun _ _ => rfl) fun ha => by rw [hans] at ha; cases ha

theorem intakeOk_issued (s : State) (i : SlotIx) (t : Translation) (h : s.IntakeOk)
    (hans : (s.slot i).isAnswered = false) : (s.setStage i (.issued t)).IntakeOk :=
  intakeOk_setStage s i _ h (withStage_inResolution _ _ fun _ _ => rfl) fun ha => by rw [hans] at ha; cases ha

/-! ## Refusals and decisions (R52, R109) -/

theorem kept_setContexts (s : State) (c : Vector Context 4) : Kept s { s with contexts := c } := {}

theorem kept_answer (s : State) (i : SlotIx) (t : Option Translation) (r : Answer) :
    Kept s (s.setStage i (.answerReady t r)) where
  intake := intakeOk_answer s i t r

theorem kept_refuse (s : State) (i : SlotIx) (a : Access) (cause : Cause) (stamp : Option Byte) (place : Option Place)
    (detail : Option Byte) : Kept s (s.refuse i a cause stamp place detail) := by
  have hcount : Kept s (s.countRefusal a.org cause) := by
    unfold State.countRefusal
    split
    · exact kept_setContexts s _
    · exact Kept.refl s
  have hlog : ∀ (v : State) q o l f, Kept v (v.logRefusal q o l f) := by
    intro v q o l f
    unfold State.logRefusal
    split
    · exact (kept_offer v f).trans (kept_offer _ _)
    · exact kept_offer v f
  exact (hcount.trans (hlog _ _ _ _ _)).trans (kept_answer _ i none (.refused cause))

end Sys2Proof.Proofs
end

section
/-! PROOFS. Keys and pins: what an operation on the cache or the fetch unit does to the keys held and fetched, to the number
of pinned entries, and to the fetches on which the command waits. -/

namespace Sys2Proof.Proofs

open Sys2Proof.Machine Sys2Proof.Claims

/-! ## Keys -/

theorem key?_eq_none_iff (x : FetchSlot) : x.key? = none ↔ x.isIdle = true := by
  cases x <;> simp [FetchSlot.key?, FetchSlot.isIdle]

/-- Entries that take no new key and answer no new one, with fetch slots and a wait list of the same keys. -/
theorem keysOk_of_keys (s u : State)
    (hkey : ∀ i k, (u.cache.entry i).key? = some k → (s.cache.entry i).key? = some k)
    (hanswer : ∀ i k, (u.cache.entry i).answers k = true → (s.cache.entry i).answers k = true)
    (hslot : ∀ f, (u.fetch.slot f).key? = (s.fetch.slot f).key?) (hwait : u.fetch.waitList = s.fetch.waitList)
    (h : s.KeysOk) : u.KeysOk := by
  have hnot : ∀ i k, (s.cache.entry i).answers k = false → (u.cache.entry i).answers k = false := fun i k hs =>
    Bool.eq_false_iff.mpr fun hu => by simp [hanswer i k hu] at hs
  have hidle : ∀ f, (u.fetch.slot f).isIdle = (s.fetch.slot f).isIdle := fun f =>
    Bool.eq_iff_iff.mpr (by rw [← key?_eq_none_iff, ← key?_eq_none_iff, hslot])
  obtain ⟨hentries, hfetches, hapart, hwaiting⟩ := h
  refine ⟨fun i j k hi hj => hentries i j k (hkey i k hi) (hkey j k hj), ?_, ?_, ?_⟩
  · simpa only [hslot] using hfetches
  · intro f k hf i
    exact hnot i k (hapart f k (hslot f ▸ hf) i)
  · intro a ha
    obtain ⟨hslots, hcache⟩ := hwaiting a (hwait ▸ ha)
    exact ⟨fun f => by simpa only [hslot, hidle] using hslots f, fun i => hnot i _ (hcache i)⟩

/-- The entry `x` holds no key that `y` did not, and answers none that `y` did not. -/
def Narrows (x y : Entry) : Prop :=
  (∀ k, x.key? = some k → y.key? = some k) ∧ ∀ k, x.answers k = true → y.answers k = true

theorem narrows_refl (x : Entry) : Narrows x x := ⟨fun _ => id, fun _ => id⟩

/-- An operation on the cache alone whose entries narrow. -/
theorem keysOk_of_narrows (s u : State) (hcache : ∀ i, Narrows (u.cache.entry i) (s.cache.entry i))
    (hfetch : u.fetch = s.fetch) (h : s.KeysOk) : u.KeysOk :=
  keysOk_of_keys s u (fun i => (hcache i).1) (fun i => (hcache i).2) (fun f => by rw [hfetch]) (by rw [hfetch]) h

theorem narrows_invalidated (x : Entry) : Narrows x.invalidated x := by
  cases x with
  | valid k p d st m => cases p <;> simp [Narrows, Entry.invalidated, Entry.key?, Entry.answers, Entry.live]
  | absent k p => cases p <;> simp [Narrows, Entry.invalidated, Entry.key?, Entry.answers, Entry.live]
  | _ => exact narrows_refl _

theorem narrows_raise (kind : AccessKind) (x : Entry) : Narrows (x.raise kind) x := by cases x <;> exact narrows_refl _

theorem narrows_pin (x : Entry) : Narrows x.pin x := by cases x <;> exact narrows_refl _

theorem narrows_sent (x : Entry) : Narrows x.sent x := by cases x <;> exact narrows_refl _

theorem narrows_share (value : Byte) (x : Entry) : Narrows (x.share value) x := by cases x <;> exact narrows_refl _

theorem narrows_unpin (x : Entry) : Narrows x.unpin x := by
  cases x with
  | stale k => simp [Narrows, Entry.unpin, Entry.key?, Entry.answers, Entry.live]
  | _ => exact narrows_refl _

/-- One entry replaced. -/
theorem narrows_poke (c : Cache) (entries : Vector Entry 16) (e : EntryIx) (x : Entry)
    (h : entries = poke c.entries e x) (hx : Narrows x (c.entry e)) (i : EntryIx) :
    Narrows (peek entries i) (c.entry i) := by
  rw [h, peek_poke]
  split
  case isTrue he => exact he ▸ hx
  case isFalse => exact narrows_refl _

/-! ## The entries of a cache after each operation -/


theorem install_entry (c : Cache) (e i : EntryIx) (x : Entry) :
    (c.install e x).entry i = if e = i then x else c.entry i := peek_poke _ _ _ _

theorem raiseMarks_entry (c : Cache) (e i : EntryIx) (kind : AccessKind) :
    (c.raiseMarks e kind).entry i = if e = i then (c.entry e).raise kind else c.entry i := peek_poke _ _ _ _

theorem pin_entry (c : Cache) (e i : EntryIx) : (c.pin e).entry i = if e = i then (c.entry e).pin else c.entry i :=
  peek_poke _ _ _ _

theorem unpin_entry (c : Cache) (e i : EntryIx) :
    (c.unpin e).entry i = if e = i then (c.entry e).unpin else c.entry i := peek_poke _ _ _ _

/-! ## Pins -/

theorem pinCount_eq_countP (c : Cache) : c.pinCount = allEntries.countP fun i => (c.entry i).pinned :=
  List.countP_eq_length_filter.symm

/-- Entries that stay pinned or unpinned, with their keys when pinned. -/
structure SamePins (c c' : Cache) : Prop where
  pinned : ∀ i, (c'.entry i).pinned = (c.entry i).pinned
  key : ∀ i, (c.entry i).pinned = true → (c'.entry i).key? = (c.entry i).key?

theorem SamePins.refl (c : Cache) : SamePins c c := ⟨fun _ => rfl, fun _ _ => rfl⟩

theorem SamePins.trans {c c' c'' : Cache} (h : SamePins c c') (h' : SamePins c' c'') : SamePins c c'' :=
  ⟨fun i => (h'.pinned i).trans (h.pinned i),
    fun i hi => (h'.key i ((h.pinned i).trans hi)).trans (h.key i hi)⟩

theorem SamePins.pinCount {c c' : Cache} (h : SamePins c c') : c'.pinCount = c.pinCount := by
  simp only [pinCount_eq_countP, h.pinned]

theorem SamePins.pinnedOf {c c' : Cache} (h : SamePins c c') (k : Key) : c'.pinnedOf k = c.pinnedOf k := by
  have : (fun i => (c'.entry i).pinned && decide ((c'.entry i).key? = some k)) =
      fun i => (c.entry i).pinned && decide ((c.entry i).key? = some k) := by
    funext i
    cases hp : (c.entry i).pinned with
    | false => simp [h.pinned, hp]
    | true => simp [h.pinned, hp, h.key i hp]
  rw [Cache.pinnedOf, Cache.pinnedOf, this]

/-- One entry replaced by one that is pinned as it was, for the same key if so. -/
theorem samePins_of_one (c c' : Cache) (e : EntryIx) (x : Entry)
    (h : ∀ i, c'.entry i = if e = i then x else c.entry i) (hp : x.pinned = (c.entry e).pinned)
    (hk : (c.entry e).pinned = true → x.key? = (c.entry e).key?) : SamePins c c' where
  pinned i := by
    rw [h i]
    split
    case isTrue he => exact he ▸ hp
    case isFalse => rfl
  key i hi := by
    rw [h i]
    split
    case isTrue he => subst he; exact hk hi
    case isFalse => rfl

theorem samePins_touch (c : Cache) (e : EntryIx) : SamePins c (c.touch e) := ⟨fun _ => rfl, fun _ _ => rfl⟩

theorem samePins_raiseMarks (c : Cache) (e : EntryIx) (kind : AccessKind) : SamePins c (c.raiseMarks e kind) := by
  refine samePins_of_one c _ e _ (raiseMarks_entry c e · kind) ?_ fun _ => ?_ <;> cases c.entry e <;> rfl

theorem samePins_invalidate (c : Cache) (covered : Entry → Bool) : SamePins c (c.invalidate covered) where
  pinned i := by
    rw [Cache.invalidate_entry]
    split
    · rcases c.entry i with _ | ⟨_, p, _, _, _⟩ | ⟨_, p⟩ | _
      case valid => cases p <;> rfl
      case absent => cases p <;> rfl
      all_goals rfl
    · rfl
  key i hi := by
    rw [Cache.invalidate_entry]
    split
    · rcases hx : c.entry i with _ | ⟨_, p, _, _, _⟩ | ⟨_, p⟩ | _
      case valid => simp_all [Entry.pinned, Entry.invalidated, Entry.key?]
      case absent => simp_all [Entry.pinned, Entry.invalidated, Entry.key?]
      all_goals rfl
    · rfl

theorem samePins_sendStatus (c : Cache) (e : EntryIx) (shares : Key → Bool) : SamePins c (c.sendStatus e shares) := by
  have h : ∀ i, ((c.sendStatus e shares).entry i).pinned = (c.entry i).pinned ∧
      ((c.sendStatus e shares).entry i).key? = (c.entry i).key? := by
    intro i
    rw [Cache.sendStatus_entry]
    split
    · cases c.entry i <;> exact ⟨rfl, rfl⟩
    · split
      · cases c.entry i <;> exact ⟨rfl, rfl⟩
      · exact ⟨rfl, rfl⟩
  exact ⟨fun i => (h i).1, fun i _ => (h i).2⟩

/-- A cache whose pins are the same, with the same engine phase and the same fetches waited for. -/
theorem pinsOk_of_samePins (s u : State) (hcache : SamePins s.cache u.cache)
    (hphase : u.engine.phase = s.engine.phase) (hfetch : u.fetch.commandKeys = s.fetch.commandKeys) (h : s.PinsOk) :
    u.PinsOk := by
  simpa only [State.PinsOk, hcache.pinCount, hcache.pinnedOf, hphase, hfetch] using h

/-- When one entry is replaced, at most one more is pinned. -/
theorem pinCount_le_succ (c c' : Cache) (e : EntryIx) (h : ∀ i, i ≠ e → c'.entry i = c.entry i) :
    c'.pinCount ≤ c.pinCount + 1 := by
  have hsum : ∀ l : List EntryIx, (l.countP fun i => (c'.entry i).pinned) ≤
      (l.countP fun i => (c.entry i).pinned) + l.countP fun i => decide (i = e) := by
    intro l
    induction l with
    | nil => simp
    | cons i l ih =>
      simp only [List.countP_cons]
      by_cases hi : i = e
      · simp only [hi, decide_true]
        split <;> split <;> simp <;> omega
      · simp only [h i hi, hi, decide_false]
        omega
  have hone : allEntries.countP (fun i => decide (i = e)) = 1 :=
    (by decide : ∀ e : EntryIx, allEntries.countP (fun i => decide (i = e)) = 1) e
  rw [pinCount_eq_countP, pinCount_eq_countP, ← hone]
  exact hsum _

/-! ## The fetches on which the command waits -/

/-- The command's places among the waiters of a fetch for `k`. -/
def commandPlaces (k : Key) (ws : List Waiter) : List Key := (ws.filter fun w => decide (w = .command)).map fun _ => k

/-- The keys for which one fetch slot has the command waiting. -/
def slotKeys : FetchSlot → List Key
  | .idle => []
  | .reading k ws _ _ _ => commandPlaces k ws
  | .installing k ws _ _ _ => commandPlaces k ws

/-- The keys for which the wait list holds the command. -/
def listKeys (l : List Asker) : List Key := (l.filter fun (a : Asker) => decide (a.waiter = .command)).map Asker.key

theorem commandKeys_eq (u : FetchUnit) :
    u.commandKeys = slotKeys (u.slot 0) ++ slotKeys (u.slot 1) ++ listKeys u.waitList := by
  have h : ∀ x : FetchSlot, slotKeys x = match x with
      | .idle => []
      | .reading k ws _ _ _ => (ws.filter fun w => decide (w = .command)).map fun _ => k
      | .installing k ws _ _ _ => (ws.filter fun w => decide (w = .command)).map fun _ => k := by
    intro x
    cases x <;> rfl
  simp only [h, FetchUnit.commandKeys, allFetchSlots, List.flatMap_cons, List.flatMap_nil, List.append_nil, listKeys] <;>
    rfl

/-- Fetch slots and a wait list in which the command waits for the same keys. -/
theorem commandKeys_congr (u v : FetchUnit) (hslot : ∀ f, slotKeys (v.slot f) = slotKeys (u.slot f))
    (hwait : v.waitList = u.waitList) : v.commandKeys = u.commandKeys := by
  rw [commandKeys_eq, commandKeys_eq, hslot, hslot, hwait]

/-- One fetch slot replaced, and the wait list. -/
theorem commandKeys_poke (u v : FetchUnit) (i : FetchIx) (x : FetchSlot) (hslots : v.slots = poke u.slots i x) :
    (v.commandKeys ++ (slotKeys (u.slot i) ++ listKeys u.waitList)).Perm
      (u.commandKeys ++ (slotKeys x ++ listKeys v.waitList)) := by
  rw [List.perm_iff_count]
  intro k
  rcases (by decide : ∀ i : FetchIx, i = 0 ∨ i = 1) i with rfl | rfl <;>
    simp only [commandKeys_eq, FetchUnit.slot, hslots, peek_poke, List.count_append] <;> simp <;> omega

/-- The command's places in a list of askers, those for one key apart. -/
theorem listKeys_partition (k : Key) (l : List Asker) :
    (commandPlaces k ((l.filter fun (b : Asker) => decide (b.key = k)).map Asker.waiter) ++
      listKeys (l.filter fun (b : Asker) => decide (b.key ≠ k))).Perm (listKeys l) := by
  induction l with
  | nil => exact .nil
  | cons a l ih =>
    by_cases hk : a.key = k
    · by_cases hw : a.waiter = .command
      · simpa [commandPlaces, listKeys, hk, hw] using ih
      · simpa [commandPlaces, listKeys, hk, hw] using ih
    · by_cases hw : a.waiter = .command
      · simp only [listKeys, commandPlaces] at ih
        simpa [commandPlaces, listKeys, hk, hw] using
          (List.perm_middle.trans (List.Perm.cons a.key ih))
      · simpa [commandPlaces, listKeys, hk, hw] using ih

/-- A freed slot takes its own waiters away, and moves no other waiter but from the wait list into the slot. -/
theorem release_commandKeys (u : FetchUnit) (i : FetchIx) :
    ((u.release i).commandKeys ++ slotKeys (u.slot i)).Perm u.commandKeys := by
  rcases hw : u.waitList with _ | ⟨a, rest⟩
  · have hr : u.release i = u.setSlot i .idle := by simp only [FetchUnit.release, hw]
    have h := commandKeys_poke u (u.setSlot i .idle) i .idle rfl
    rw [hr]
    simpa [slotKeys, FetchUnit.setSlot, hw, listKeys] using h
  · have hpart := listKeys_partition a.key (a :: rest)
    simp only [List.filter_cons, decide_true, if_true, List.map_cons, ne_eq, not_true_eq_false, decide_false] at hpart
    have hr : u.release i = (FetchUnit.begin
        { u with waitList := rest.filter fun (b : Asker) => decide (b.key ≠ a.key) } i a.key
        (a.waiter :: (rest.filter fun (b : Asker) => decide (b.key = a.key)).map Asker.waiter)) := by
      simp only [FetchUnit.release, hw]
    have h := commandKeys_poke u (u.release i) i _ (by rw [hr]; rfl)
    rw [List.perm_iff_count] at *
    intro k
    have h := h k
    have hpart := hpart k
    rw [hr] at h ⊢
    simp only [List.count_append, hw, slotKeys, FetchUnit.begin, ne_eq] at h hpart ⊢
    simp only [Bool.false_eq_true, if_false] at hpart
    omega

/-! ## Changes of the cache alone -/

/-- A cache whose entries take no new key and keep their pins. -/
theorem kept_cache (s : State) (c : Cache) (hcache : s.cache.Ok → c.Ok)
    (hnarrows : ∀ i, Narrows (c.entry i) (s.cache.entry i)) (hpins : SamePins s.cache c) :
    Kept s { s with cache := c } where
  cache := hcache
  keys := keysOk_of_narrows s _ hnarrows rfl
  pins _ _ := pinsOk_of_samePins s _ hpins rfl rfl

theorem kept_touch (s : State) (e : EntryIx) (h : (s.cache.entry e).isFree = false) :
    Kept s { s with cache := s.cache.touch e } :=
  kept_cache s _ (fun hc => s.cache.touch_ok e hc h) (fun _ => narrows_refl _) (samePins_touch s.cache e)

theorem kept_raiseMarks (s : State) (e : EntryIx) (kind : AccessKind) :
    Kept s { s with cache := s.cache.raiseMarks e kind } :=
  kept_cache s _ (Cache.raiseMarks_ok _ _ _) (narrows_poke s.cache _ e _ rfl (narrows_raise kind _))
    (samePins_raiseMarks s.cache e kind)

theorem kept_cacheInvalidate (s : State) (covered : Entry → Bool) :
    Kept s { s with cache := s.cache.invalidate covered } := by
  refine kept_cache s _ (Cache.invalidate_ok _ _) (fun i => ?_) (samePins_invalidate s.cache covered)
  rw [Cache.invalidate_entry]
  split
  · exact narrows_invalidated _
  · exact narrows_refl _

theorem kept_sendStatus (s : State) (e : EntryIx) (shares : Key → Bool) :
    Kept s { s with cache := s.cache.sendStatus e shares } := by
  refine kept_cache s _ (Cache.sendStatus_ok _ _ _) (fun i => ?_) (samePins_sendStatus s.cache e shares)
  rw [Cache.sendStatus_entry]
  split
  · exact narrows_sent _
  · split
    · exact narrows_share _ _
    · exact narrows_refl _

end Sys2Proof.Proofs
end

section
/-! PROOFS. The end of a fetch (R70, R89, R93 to R100): its wakes keep the invariants that look at one block each, and with
the freed slot all nine are kept. -/

namespace Sys2Proof.Proofs

open Sys2Proof.Machine Sys2Proof.Claims

/-! ## Wakes -/

theorem kept_setResolved (s : State) (i : SlotIx) (t : Translation) (hans : (s.slot i).isAnswered = false) :
    Kept s (s.setStage i (.resolved t)) where
  intake h := intakeOk_resolved s i t h hans

/-- Steps 4 to 6 against an entry, for a slot that has no answer yet (R49, R51). -/
theorem kept_resolveAgainst (s : State) (i : SlotIx) (a : Access) (e : EntryIx) (d : Descriptor)
    (hans : (s.slot i).isAnswered = false) : Kept s (s.resolveAgainst i a e d) := by
  rcases hv : d.evaluate a with t | cause
  · rw [s.resolveAgainst_pass i a e d t hv]
    exact (kept_setResolved s i t hans).trans (kept_raiseMarks _ e a.kind)
  · rw [s.resolveAgainst_fail i a e d cause hv]
    exact kept_refuse s i a cause _ _ _

theorem blocksKept_wake (s : State) (k : Key) (o : FetchOutcome) (w : Waiter) : BlocksKept s (s.wake k o w) := by
  cases w with
  | request i =>
    simp only [State.wake, State.wakeRequest]
    split
    case h_1 a d hslot =>
      cases o with
      | valid e d' _ => exact (kept_resolveAgainst s i a e d' (by rw [hslot]; rfl)).toBlocksKept
      | _ => exact (kept_refuse s i a _ _ _ _).toBlocksKept
    case h_2 => exact BlocksKept.refl s
  | command =>
    have hfinish : ∀ r l, s.engine.phase ≠ .executing .engage → s.engine.phase ≠ .executing .softReset →
        BlocksKept s (s.finish r l) := fun r l hengage hreset =>
      { sequence := fun h => sequenceOk_of_none _ (sequence_none_of_ne s hengage hreset h) }
    simp only [State.wake, State.wakeCommand]
    split
    case h_1 k' hphase => split <;> exact hfinish _ _ (by simp [hphase]) (by simp [hphase])
    case h_2 a hphase => split <;> exact hfinish _ _ (by simp [hphase]) (by simp [hphase])
    case h_3 => exact BlocksKept.refl s

theorem blocksKept_wakeAll (s : State) (k : Key) (o : FetchOutcome) (ws : List Waiter) :
    BlocksKept s (s.wakeAll k o ws) := by
  unfold State.wakeAll
  induction ws generalizing s with
  | nil => exact BlocksKept.refl s
  | cons w ws ih => exact (blocksKept_wake s k o w).trans (ih _)

/-- A wake leaves the cache, or raises marks in one entry. -/
theorem wake_cache (s : State) (k : Key) (o : FetchOutcome) (w : Waiter) :
    (s.wake k o w).cache = s.cache ∨ ∃ e kind, (s.wake k o w).cache = s.cache.raiseMarks e kind := by
  cases w with
  | command =>
    left
    simp only [State.wake]
    rw [State.wakeCommand_eq]
  | request i =>
    simp only [State.wake, State.wakeRequest]
    split
    case h_1 a d hslot =>
      cases o with
      | valid e d' _ =>
        rcases hv : d'.evaluate a with t | cause
        · exact .inr ⟨e, a.kind, by simp only [State.resolveAgainst, hv]⟩
        · exact .inl (by simp only [State.resolveAgainst, hv, State.refuse_cache])
      | _ => exact .inl (State.refuse_cache ..)
    case h_2 => exact .inl rfl

/-- The entries keep their keys and their pins through a wake. -/
theorem wakeAll_cache (s : State) (k : Key) (o : FetchOutcome) (ws : List Waiter) :
    (∀ i, Narrows ((s.wakeAll k o ws).cache.entry i) (s.cache.entry i)) ∧
      SamePins s.cache (s.wakeAll k o ws).cache := by
  unfold State.wakeAll
  induction ws generalizing s with
  | nil => exact ⟨fun _ => narrows_refl _, SamePins.refl _⟩
  | cons w ws ih =>
    obtain ⟨hn, hp⟩ := ih (s.wake k o w)
    rcases wake_cache s k o w with hc | ⟨e, kind, hc⟩
    · rw [hc] at hn hp
      exact ⟨hn, hp⟩
    · rw [hc] at hn hp
      refine ⟨fun i => ?_, (samePins_raiseMarks _ e kind).trans hp⟩
      have hraise := narrows_poke s.cache _ e _ rfl (narrows_raise kind (s.cache.entry e)) i
      exact ⟨fun k' hk' => hraise.1 k' ((hn i).1 k' hk'), fun k' hk' => hraise.2 k' ((hn i).2 k' hk')⟩

theorem wakeRequest_engine (s : State) (i : SlotIx) (o : FetchOutcome) : (s.wakeRequest i o).engine = s.engine := by
  unfold State.wakeRequest
  split
  case h_1 a d _ =>
    cases o with
    | valid e d' _ =>
      simp only [State.resolveAgainst]
      split
      · rfl
      · exact State.refuse_engine ..
    | _ => exact State.refuse_engine ..
  case h_2 => rfl

/-- The engine goes on when the command is not among the waiters. -/
theorem wakeAll_engine (s : State) (k : Key) (o : FetchOutcome) (ws : List Waiter) (h : Waiter.command ∉ ws) :
    (s.wakeAll k o ws).engine = s.engine := by
  unfold State.wakeAll
  induction ws generalizing s with
  | nil => rfl
  | cons w ws ih =>
    simp only [List.mem_cons, not_or] at h
    cases w with
    | command => exact absurd rfl h.1
    | request i => exact (ih _ h.2).trans (wakeRequest_engine s i o)

/-- A wake of a PIN or a PROBE ends it (R100). -/
theorem wakeCommand_ends (s : State) (k : Key) (o : FetchOutcome) (h : s.engine.phase.fetchKey? ≠ none) :
    ∃ r b, (s.wakeCommand k o).engine.phase = .complete r b := by
  unfold State.wakeCommand
  split
  case h_1 => split <;> exact ⟨_, _, rfl⟩
  case h_2 => split <;> exact ⟨_, _, rfl⟩
  case h_3 hpin hprobe =>
    rcases hp : s.engine.phase with _ | _ | c | _
    case executing =>
      cases c with
      | pin k' => exact absurd hp (hpin k')
      | probe a => exact absurd hp (hprobe a)
      | _ => simp [hp, EnginePhase.fetchKey?] at h
    all_goals simp [hp, EnginePhase.fetchKey?] at h

theorem wakeCommand_of_complete (s : State) (k : Key) (o : FetchOutcome) (r : ResultCode) (b : Vector Byte 24)
    (h : s.engine.phase = .complete r b) : s.wakeCommand k o = s := by
  simp only [State.wakeCommand, h]

theorem wakeAll_of_complete (s : State) (k : Key) (o : FetchOutcome) (ws : List Waiter) (r : ResultCode)
    (b : Vector Byte 24) (h : s.engine.phase = .complete r b) :
    (s.wakeAll k o ws).engine.phase = .complete r b := by
  unfold State.wakeAll
  induction ws generalizing s with
  | nil => exact h
  | cons w ws ih =>
    refine ih _ ?_
    cases w with
    | request i => exact (congrArg Engine.phase (wakeRequest_engine s i o)).trans h
    | command =>
      simp only [State.wake]
      rw [wakeCommand_of_complete s k o r b h]
      exact h

/-- A PIN or a PROBE among the waiters ends. -/
theorem wakeAll_ends (s : State) (k : Key) (o : FetchOutcome) (ws : List Waiter) (hmem : Waiter.command ∈ ws)
    (h : s.engine.phase.fetchKey? ≠ none) : ∃ r b, (s.wakeAll k o ws).engine.phase = .complete r b := by
  induction ws generalizing s with
  | nil => cases hmem
  | cons w ws ih =>
    cases w with
    | command =>
      obtain ⟨r, b, hc⟩ := wakeCommand_ends s k o h
      exact ⟨r, b, wakeAll_of_complete _ k o ws r b hc⟩
    | request i =>
      have hmem : Waiter.command ∈ ws := by simpa using hmem
      exact ih (s.wakeRequest i o) hmem (by rw [wakeRequest_engine]; exact h)

/-! ## The freed slot -/

/-- What stands when the fetch of slot `i` for `k` is to end: `ws` are its waiters, `c` is the cache by then, and `l` are
the installs that go on waiting. -/
structure EndsFetch (s : State) (i : FetchIx) (k : Key) (ws : List Waiter) (c : Cache) (l : List FetchIx) : Prop where
  key : (s.fetch.slot i).key? = some k
  places : slotKeys (s.fetch.slot i) = commandPlaces k ws
  asking : (s.fetch.slot i).isAsking = false
  installs : s.fetch.InstallsListed →
    l.Nodup ∧ i ∉ l ∧ ∀ f, f ≠ i → (f ∈ l ↔ (s.fetch.slot f).installKey? ≠ none)
  cache : s.cache.Ok → c.Ok
  entries : s.KeysOk → ∀ i j k', (c.entry i).key? = some k' → (c.entry j).key? = some k' → i = j
  answers : ∀ j k', (c.entry j).answers k' = true → k' = k ∨ ∃ j', (s.cache.entry j').answers k' = true
  pins : s.KeysOk → s.PinsOk → c.pinCount ≤ 12 ∧
    (Waiter.command ∉ ws → ∀ k', s.engine.phase = .executing (.pin k') → c.pinnedOf k' ≠ none ∨ c.pinCount < 12)

/-- The state in which the waiters of the fetch are woken. -/
def fetchEnding (s : State) (c : Cache) (l : List FetchIx) : State :=
  { s with cache := c, fetch := { s.fetch with installs := l } }

/-- The state after the fetch has ended. -/
def fetchEnded (s : State) (i : FetchIx) (k : Key) (ws : List Waiter) (o : FetchOutcome) (c : Cache)
    (l : List FetchIx) : State :=
  (fetchEnding s c l).endFetch i k ws o

theorem fetchEnded_eq (s : State) (i : FetchIx) (k : Key) (ws : List Waiter) (o : FetchOutcome) (c : Cache)
    (l : List FetchIx) : fetchEnded s i k ws o c l =
      { (fetchEnding s c l).wakeAll k o ws with fetch := { s.fetch with installs := l }.release i } :=
  State.endFetch_eq ..

theorem fetchEnded_fetch (s : State) (i : FetchIx) (k : Key) (ws : List Waiter) (o : FetchOutcome) (c : Cache)
    (l : List FetchIx) : (fetchEnded s i k ws o c l).fetch = { s.fetch with installs := l }.release i := by
  rw [fetchEnded_eq]

/-- The slots of a fetch unit in which slot `i` is freed: it takes the key at the head of the wait list, or none. -/
theorem release_slot (u : FetchUnit) (i : FetchIx) :
    (u.waitList = [] ∧ u.release i = u.setSlot i .idle) ∨
      ∃ a rest ws, u.waitList = a :: rest ∧ (u.release i).slot i = .reading a.key ws false 1 .asking ∧
        (∀ f, f ≠ i → (u.release i).slot f = u.slot f) ∧
        (u.release i).waitList = rest.filter fun (b : Asker) => decide (b.key ≠ a.key) := by
  unfold FetchUnit.release
  split
  case h_1 hw => exact .inl ⟨hw, rfl⟩
  case h_2 a rest hw =>
    refine .inr ⟨a, rest, a.waiter :: (rest.filter fun (b : Asker) => decide (b.key = a.key)).map Asker.waiter, hw, ?_,
      fun f hf => ?_, rfl⟩
    · simp only [FetchUnit.begin, FetchUnit.slot, peek_poke, if_true]
    · simp only [FetchUnit.begin, FetchUnit.slot, peek_poke, if_neg (Ne.symm hf)]

/-- The end of a fetch keeps every key in one place (R66, R87, R89). -/
theorem keysOk_release (s : State) (i : FetchIx) (k : Key) (c : Cache) (u : State)
    (hkey : (s.fetch.slot i).key? = some k)
    (hentries : ∀ i j k', (c.entry i).key? = some k' → (c.entry j).key? = some k' → i = j)
    (hanswers : ∀ j k', (c.entry j).answers k' = true → k' = k ∨ ∃ j', (s.cache.entry j').answers k' = true)
    (hcache : ∀ j, Narrows (u.cache.entry j) (c.entry j)) (v : FetchUnit) (hv : v.slots = s.fetch.slots)
    (hvw : v.waitList = s.fetch.waitList) (hfetch : u.fetch = v.release i) (h : s.KeysOk) : u.KeysOk := by
  obtain ⟨-, hfetches, hapart, hwaiting⟩ := h
  have hslot : ∀ f, v.slot f = s.fetch.slot f := fun f => by rw [FetchUnit.slot, hv, FetchUnit.slot]
  have hnone : ∀ k', k' ≠ k → (∀ j, (s.cache.entry j).answers k' = false) → ∀ j, (u.cache.entry j).answers k' = false := by
    intro k' hne hs j
    refine Bool.eq_false_iff.mpr fun hu => ?_
    rcases hanswers j k' ((hcache j).2 k' hu) with he | ⟨j', hj'⟩
    · exact hne he
    · rw [hs j'] at hj'
      cases hj'
  have hother : ∀ f, f ≠ i → ∀ k', (s.fetch.slot f).key? = some k' → ∀ j, (u.cache.entry j).answers k' = false := by
    intro f hf k' hk'
    refine hnone k' (fun he => hf ?_) (hapart f k' hk')
    exact hfetches f i k (he ▸ hk') hkey
  refine ⟨fun i j k' hi hj => hentries i j k' ((hcache i).1 k' hi) ((hcache j).1 k' hj), ?_⟩
  rcases release_slot v i with ⟨hw, hr⟩ | ⟨a, rest, ws, hw, hself, hrest, hwait⟩
  · have hidle : (u.fetch.slot i).key? = none := by
      simp only [hfetch, hr, FetchUnit.setSlot, FetchUnit.slot, peek_poke, if_true, FetchSlot.key?]
    have hkeep : ∀ f, f ≠ i → u.fetch.slot f = s.fetch.slot f := fun f hf => by
      simp only [hfetch, hr, FetchUnit.setSlot, FetchUnit.slot, peek_poke, if_neg (Ne.symm hf), hv]
    have hne : ∀ f k', (u.fetch.slot f).key? = some k' → f ≠ i := by
      rintro f k' hf rfl
      rw [hidle] at hf
      cases hf
    refine ⟨fun f g k' hf hg => ?_, fun f k' hf => ?_, fun a ha => ?_⟩
    · exact hfetches f g k' (hkeep f (hne f k' hf) ▸ hf) (hkeep g (hne g k' hg) ▸ hg)
    · exact hother f (hne f k' hf) k' (hkeep f (hne f k' hf) ▸ hf)
    · rw [hfetch, hr, FetchUnit.setSlot, hw] at ha
      cases ha
  · rw [hvw] at hw
    obtain ⟨hfree, hunheld⟩ := hwaiting a (by rw [hw]; simp)
    have hself : u.fetch.slot i = .reading a.key ws false 1 .asking := by rw [hfetch, hself]
    have hkeep : ∀ f, f ≠ i → u.fetch.slot f = s.fetch.slot f := fun f hf => by rw [hfetch, hrest f hf, hslot]
    have hak : a.key ≠ k := fun he => (hfree i).1 (he ▸ hkey)
    refine ⟨fun f g k' hf hg => ?_, fun f k' hf => ?_, fun b hb => ?_⟩
    · by_cases hfi : f = i <;> by_cases hgi : g = i
      · rw [hfi, hgi]
      · rw [hfi, hself] at hf
        cases hf
        exact absurd (hkeep g hgi ▸ hg) (hfree g).1
      · rw [hgi, hself] at hg
        cases hg
        exact absurd (hkeep f hfi ▸ hf) (hfree f).1
      · exact hfetches f g k' (hkeep f hfi ▸ hf) (hkeep g hgi ▸ hg)
    · by_cases hfi : f = i
      · rw [hfi, hself] at hf
        cases hf
        exact hnone _ hak hunheld
      · exact hother f hfi k' (hkeep f hfi ▸ hf)
    · rw [hfetch, hwait, List.mem_filter] at hb
      obtain ⟨hb, hne⟩ := hb
      obtain ⟨hbfree, hbunheld⟩ := hwaiting b (by rw [hw]; simp [hb])
      refine ⟨fun f => ?_, hnone _ (fun he => (hbfree i).1 (he ▸ hkey)) hbunheld⟩
      by_cases hfi : f = i
      · rw [hfi, hself]
        refine ⟨fun he => ?_, rfl⟩
        simp only [FetchSlot.key?, Option.some.injEq] at he
        simp [he] at hne
      · rw [hkeep f hfi]
        exact hbfree f

theorem commandPlaces_nil_iff (k : Key) (ws : List Waiter) : commandPlaces k ws = [] ↔ Waiter.command ∉ ws := by
  simp only [commandPlaces, List.map_eq_nil_iff, List.filter_eq_nil_iff, decide_eq_true_eq]
  exact ⟨fun h hm => h _ hm rfl, fun h w hw he => h (he ▸ hw)⟩

/-- The end of a fetch keeps the pins: a PIN among the waiters ends with it (R79, R100). -/
theorem pinsOk_fetchEnded (s : State) (i : FetchIx) (k : Key) (ws : List Waiter) (o : FetchOutcome) (c : Cache)
    (l : List FetchIx) (h : EndsFetch s i k ws c l) (hkeys : s.KeysOk) (hpins : s.PinsOk) :
    (fetchEnded s i k ws o c l).PinsOk := by
  obtain ⟨hcount, hplace⟩ := h.pins hkeys hpins
  have hperm : ((fetchEnded s i k ws o c l).fetch.commandKeys ++ commandPlaces k ws).Perm s.fetch.commandKeys := by
    rw [fetchEnded_fetch, ← h.places]
    exact release_commandKeys { s.fetch with installs := l } i
  have hsame : SamePins c (fetchEnded s i k ws o c l).cache := by
    rw [fetchEnded_eq]
    exact (wakeAll_cache (fetchEnding s c l) k o ws).2
  have hengine : Waiter.command ∉ ws → (fetchEnded s i k ws o c l).engine = s.engine := fun hmem => by
    rw [fetchEnded_eq]
    exact wakeAll_engine (fetchEnding s c l) k o ws hmem
  have hends : Waiter.command ∈ ws → s.engine.phase.fetchKey? ≠ none →
      ∃ r b, (fetchEnded s i k ws o c l).engine.phase = .complete r b := fun hmem hk => by
    rw [fetchEnded_eq]
    exact wakeAll_ends (fetchEnding s c l) k o ws hmem hk
  have hgoes : Waiter.command ∉ ws → ∀ k', (fetchEnded s i k ws o c l).engine.phase = .executing (.pin k') →
      (fetchEnded s i k ws o c l).cache.pinnedOf k' ≠ none ∨ (fetchEnded s i k ws o c l).cache.pinCount < 12 := by
    intro hmem k' hk'
    rw [hengine hmem] at hk'
    rw [hsame.pinCount, hsame.pinnedOf]
    exact hplace hmem k' hk'
  obtain ⟨-, -, hwaits⟩ := hpins
  rw [← hsame.pinCount] at hcount
  rcases hwaits with hnil | ⟨k₁, hone, hphase⟩
  · rw [hnil, List.perm_nil, List.append_eq_nil_iff] at hperm
    exact ⟨hcount, hgoes ((commandPlaces_nil_iff k ws).mp hperm.2), .inl hperm.1⟩
  · rw [hone, List.perm_singleton, List.append_eq_singleton_iff] at hperm
    rcases hperm with ⟨hnil, hplaces⟩ | ⟨hone', hplaces⟩
    · have hmem : Waiter.command ∈ ws := by
        by_contra hmem
        rw [(commandPlaces_nil_iff k ws).mpr hmem] at hplaces
        cases hplaces
      obtain ⟨r, b, hc⟩ := hends hmem (by rw [hphase]; simp)
      exact pinsOk_of_nil _ hcount (by simp [hc]) hnil
    · have hmem := (commandPlaces_nil_iff k ws).mp hplaces
      exact ⟨hcount, hgoes hmem, .inr ⟨k₁, hone', by rw [hengine hmem, hphase]⟩⟩

/-- The end of a fetch keeps all nine invariants. -/
theorem kept_fetchEnded (s : State) (i : FetchIx) (k : Key) (ws : List Waiter) (o : FetchOutcome) (c : Cache)
    (l : List FetchIx) (h : EndsFetch s i k ws c l) : Kept s (fetchEnded s i k ws o c l) := by
  have hblocks : BlocksKept s (fetchEnded s i k ws o c l) := by
    have hstart : BlocksKept s (fetchEnding s c l) := { cache := h.cache }
    have hwoken := hstart.trans (blocksKept_wakeAll _ k o ws)
    rw [fetchEnded_eq]
    exact { hwoken with }
  refine { hblocks with keys := fun hk => ?_, pins := fun hk _ hp => pinsOk_fetchEnded s i k ws o c l h hk hp,
                        lists := fun _ hl => ?_ }
  · exact keysOk_release s i k c _ h.key (h.entries hk) h.answers
      (by rw [fetchEnded_eq]; exact (wakeAll_cache (fetchEnding s c l) k o ws).1) { s.fetch with installs := l } rfl rfl
      (fetchEnded_fetch s i k ws o c l) hk
  · have hseq : (fetchEnded s i k ws o c l).sequence = s.sequence := by
      rw [fetchEnded_eq]
      exact ((fetchEnding s c l).wakeAll_wakeFrame k o ws).sequence
    obtain ⟨hlisted, hempty⟩ := hl
    refine ⟨fun hr => ?_, fun hr => ?_⟩
    · obtain ⟨hasks, hinstalls⟩ := hlisted (hseq ▸ hr)
      rw [fetchEnded_fetch]
      exact ⟨FetchUnit.release_asksListed _ i hasks h.asking, FetchUnit.release_installsListed _ i (h.installs hinstalls)⟩
    · have hkey := h.key
      rw [hempty (hseq ▸ hr)] at hkey
      simp [FetchUnit.reset, FetchUnit.slot, FetchSlot.key?] at hkey

end Sys2Proof.Proofs
end

section
/-! PROOFS. The fetch unit: installs, voided installs, completed and failed table reads, and misses keep the invariants. -/

namespace Sys2Proof.Proofs

open Sys2Proof.Machine Sys2Proof.Claims

/-! ## Changes of the fetch unit alone -/

/-- In RESET_ANSWER no fetch slot is taken (R103). -/
theorem not_resetAnswer_of_busy (s : State) (f : FetchIx) (hbusy : (s.fetch.slot f).key? ≠ none) (h : s.FetchListsOk) :
    s.sequence ≠ .resetAnswer := by
  intro hr
  rw [h.2 hr] at hbusy
  simp [FetchUnit.reset, FetchUnit.slot, FetchSlot.key?] at hbusy

/-- Lists that stand outside RESET_ANSWER, because some fetch slot is taken. -/
theorem fetchListsOk_of_busy (s u : State) (f : FetchIx) (hbusy : (s.fetch.slot f).key? ≠ none)
    (hseq : u.sequence = s.sequence)
    (hlisted : s.fetch.AsksListed → s.fetch.InstallsListed → u.fetch.AsksListed ∧ u.fetch.InstallsListed)
    (h : s.FetchListsOk) : u.FetchListsOk := by
  refine ⟨fun hr => ?_, fun hr => ?_⟩
  · obtain ⟨hasks, hinstalls⟩ := h.1 (hseq ▸ hr)
    exact hlisted hasks hinstalls
  · exact absurd (hseq ▸ hr) (not_resetAnswer_of_busy s f hbusy h)

/-- Fetch slots of the same keys with the same places for the command, and the same wait list. -/
theorem kept_fetch (s : State) (v : FetchUnit) (hkey : ∀ f, (v.slot f).key? = (s.fetch.slot f).key?)
    (hplaces : ∀ f, slotKeys (v.slot f) = slotKeys (s.fetch.slot f)) (hwait : v.waitList = s.fetch.waitList)
    (hlists : s.SequenceOk → s.FetchListsOk → State.FetchListsOk { s with fetch := v }) :
    Kept s { s with fetch := v } where
  keys := keysOk_of_keys s _ (fun _ _ => id) (fun _ _ => id) hkey hwait
  pins _ _ := pinsOk_of_samePins s _ (SamePins.refl _) rfl (commandKeys_congr _ _ hplaces hwait)
  lists := hlists

/-- One fetch slot replaced by one for the same key, with the same places for the command. -/
theorem kept_fetchSlot (s : State) (i : FetchIx) (x : FetchSlot) (v : FetchUnit) (hslots : v.slots = poke s.fetch.slots i x)
    (hkey : x.key? = (s.fetch.slot i).key?) (hplaces : slotKeys x = slotKeys (s.fetch.slot i))
    (hwait : v.waitList = s.fetch.waitList)
    (hlists : s.SequenceOk → s.FetchListsOk → State.FetchListsOk { s with fetch := v }) :
    Kept s { s with fetch := v } := by
  refine kept_fetch s v (fun f => ?_) (fun f => ?_) hwait hlists <;>
    simp only [FetchUnit.slot, hslots, peek_poke] <;> split
  case refine_1.isTrue he => exact he ▸ hkey
  case refine_2.isTrue he => exact he ▸ hplaces
  all_goals rfl

/-- A fetch slot of the same key, the same place in the lists, and the same places for the command. -/
structure SameFetch (x y : FetchSlot) : Prop where
  key : y.key? = x.key?
  places : slotKeys y = slotKeys x
  asking : y.isAsking = x.isAsking
  install : y.installKey? = x.installKey?

/-- Every fetch slot mapped to one of the same key and place. -/
theorem kept_everySlot (s : State) (g : FetchSlot → FetchSlot) (hg : ∀ x, SameFetch x (g x)) :
    Kept s { s with fetch := { s.fetch with slots := everyPlace g s.fetch.slots } } := by
  have hslot : ∀ f, FetchUnit.slot { s.fetch with slots := everyPlace g s.fetch.slots } f = g (s.fetch.slot f) :=
    fun f => peek_everyPlace g s.fetch.slots f
  refine kept_fetch s _ (fun f => by rw [hslot, (hg _).key]) (fun f => by rw [hslot, (hg _).places]) rfl fun _ h => ?_
  refine ⟨fun hr => ?_, fun hr => ?_⟩
  · obtain ⟨⟨hasks, hask⟩, hinstalls, hinstall⟩ := h.1 hr
    exact ⟨⟨hasks, fun f => by rw [hslot, (hg _).asking]; exact hask f⟩,
      hinstalls, fun f => by rw [hslot, (hg _).install]; exact hinstall f⟩
  · have hreset : s.fetch = .reset := h.2 hr
    have hidle : g .idle = .idle := by
      rw [← FetchSlot.isIdle_iff, ← key?_eq_none_iff, (hg _).key]
      rfl
    have hslots : everyPlace g FetchUnit.reset.slots = FetchUnit.reset.slots :=
      row_ext fun f => by simp [FetchUnit.reset, hidle]
    simp only [hreset, hslots]

theorem kept_overtake (s : State) (p : Key → Bool) : Kept s { s with fetch := s.fetch.overtake p } := by
  refine kept_everySlot s _ fun x => ?_
  cases x with
  | reading k ws ov n ph => exact { key := rfl, places := rfl, asking := by cases ph <;> rfl, install := rfl }
  | _ => exact { key := rfl, places := rfl, asking := rfl, install := rfl }

theorem kept_share (s : State) (p : Key → Bool) (value : Byte) : Kept s { s with fetch := s.fetch.share p value } := by
  refine kept_everySlot s _ fun x => ?_
  cases x with
  | installing k ws n pl h => cases h <;> exact { key := rfl, places := rfl, asking := rfl, install := rfl }
  | _ => exact { key := rfl, places := rfl, asking := rfl, install := rfl }

/-! ## A fetch that ends without an install -/

/-- A slot that waits with an install leaves the waiting order. -/
theorem installsListed_erase (u : FetchUnit) (i : FetchIx) (h : u.InstallsListed) :
    (u.installs.erase i).Nodup ∧ i ∉ u.installs.erase i ∧
      ∀ f, f ≠ i → (f ∈ u.installs.erase i ↔ (u.slot f).installKey? ≠ none) :=
  ⟨h.1.erase i, h.1.not_mem_erase, fun f hf => by rw [List.mem_erase_of_ne hf]; exact h.2 f⟩

/-- A slot that does not wait with an install is not in the waiting order. -/
theorem installsListed_apart (u : FetchUnit) (i : FetchIx) (hi : (u.slot i).installKey? = none) (h : u.InstallsListed) :
    u.installs.Nodup ∧ i ∉ u.installs ∧ ∀ f, f ≠ i → (f ∈ u.installs ↔ (u.slot f).installKey? ≠ none) :=
  ⟨h.1, by rw [h.2 i, hi]; simp, fun f _ => h.2 f⟩

/-- With the cache as it is, the pins stand. -/
theorem endsFetch_sameCache (s : State) (i : FetchIx) (k : Key) (ws : List Waiter) (l : List FetchIx)
    (key : (s.fetch.slot i).key? = some k) (places : slotKeys (s.fetch.slot i) = commandPlaces k ws)
    (asking : (s.fetch.slot i).isAsking = false)
    (installs : s.fetch.InstallsListed →
      l.Nodup ∧ i ∉ l ∧ ∀ f, f ≠ i → (f ∈ l ↔ (s.fetch.slot f).installKey? ≠ none)) :
    EndsFetch s i k ws s.cache l where
  key := key
  places := places
  asking := asking
  installs := installs
  cache := id
  entries h := h.1
  answers j _ hj := .inr ⟨j, hj⟩
  pins _ h := ⟨h.1, fun _ => h.2.1⟩

/-- A read that was QUEUED ends its fetch without an install. -/
theorem kept_endFetch_reading (s : State) (i : FetchIx) (k : Key) (ws : List Waiter) (ov : Bool) (n : Nat) (p : Place)
    (o : FetchOutcome) (h : s.fetch.slot i = .reading k ws ov n (.queued p)) : Kept s (s.endFetch i k ws o) :=
  kept_fetchEnded s i k ws o s.cache s.fetch.installs
    (endsFetch_sameCache s i k ws _ (by rw [h]; rfl) (by rw [h]; rfl) (by rw [h]; rfl)
      (installsListed_apart s.fetch i (by rw [h]; rfl)))

theorem kept_reissueOrFail_reading (s : State) (i : FetchIx) (k : Key) (ws : List Waiter) (ov : Bool) (n : Nat) (p : Place)
    (h : s.fetch.slot i = .reading k ws ov n (.queued p)) : Kept s (s.reissueOrFail i k ws n) := by
  by_cases hn : n < maxReads
  · rw [s.reissueOrFail_of_left i k ws n hn]
    refine kept_fetchSlot s i _ _ rfl (by rw [h]; rfl) (by rw [h]; rfl) rfl fun _ =>
      fetchListsOk_of_busy s _ i (by rw [h]; simp [FetchSlot.key?]) rfl fun ha hi => ?_
    exact s.fetch.reissue_listed i k ws n ha hi (by rw [h]; rfl) (by rw [h]; rfl)
  · rw [s.reissueOrFail_of_used i k ws n (Nat.not_lt.mp hn)]
    exact kept_endFetch_reading s i k ws ov n p .unstable h

/-- A voided install is read again, or ends its fetch (R72, R97). -/
theorem kept_voidInstall (s : State) (i : FetchIx) : Kept s (s.voidInstall i) := by
  unfold State.voidInstall
  split
  case h_1 k ws n p held h =>
    by_cases hn : n < maxReads
    · rw [State.reissueOrFail_of_left _ i k ws n hn]
      refine kept_fetchSlot s i (.reading k ws false (n + 1) .asking) _ rfl (by rw [h]; rfl) (by rw [h]; rfl) rfl fun _ =>
        fetchListsOk_of_busy s _ i (by rw [h]; simp [FetchSlot.key?]) rfl fun ha hi => ?_
      obtain ⟨hnodup, hnot, hother⟩ := installsListed_erase s.fetch i hi
      refine ⟨FetchUnit.asks_snoc s.fetch i k ws false (n + 1) ha (by rw [h]; rfl), hnodup, fun f => ?_⟩
      by_cases hf : i = f
      · subst hf
        simp [FetchUnit.reissue, FetchUnit.slot, hnot, FetchSlot.installKey?]
      · simp only [FetchUnit.reissue, FetchUnit.slot, peek_poke, if_neg hf]
        exact hother f (Ne.symm hf)
    · rw [State.reissueOrFail_of_used _ i k ws n (Nat.not_lt.mp hn)]
      exact kept_fetchEnded s i k ws .unstable s.cache (s.fetch.installs.erase i)
        (endsFetch_sameCache s i k ws _ (by rw [h]; rfl) (by rw [h]; rfl) (by rw [h]; rfl)
          (installsListed_erase s.fetch i))
  case h_2 => exact Kept.refl s

theorem kept_voidInstalls (s : State) (l : List FetchIx) : Kept s (l.foldl State.voidInstall s) := by
  induction l generalizing s with
  | nil => exact Kept.refl s
  | cons i l ih => exact (kept_voidInstall s i).trans (ih _)

/-- An invalidation: the entries, then the reads, then the waiting installs (R73, R92, R97). -/
theorem kept_invalidate (s : State) (cov : Coverage) : Kept s (s.invalidate cov) := by
  rw [State.invalidate_eq]
  have hentries := kept_cacheInvalidate s (s.coversEntry cov)
  have hreads := kept_overtake { s with cache := s.cache.invalidate (s.coversEntry cov) } (s.coversFetch cov)
  exact (hentries.trans hreads).trans (kept_voidInstalls _ _)

/-! ## Installs (R69, R70) -/

theorem stale_of_key (x : Entry) (k : Key) (hkey : x.key? = some k) (hanswer : x.answers k = false) : x = .stale k := by
  cases x <;> simp_all [Entry.key?, Entry.answers, Entry.live]

/-- While a key is fetched, only a STALE entry holds it (R87). -/
theorem stale_of_fetched (s : State) (i : FetchIx) (k : Key) (hkey : (s.fetch.slot i).key? = some k) (h : s.KeysOk)
    (j : EntryIx) (hj : (s.cache.entry j).key? = some k) : s.cache.entry j = .stale k :=
  stale_of_key _ k hj (h.2.2.1 i k hkey j)

/-- The entry chosen for an install is the STALE one of the key; when it is another, no entry is STALE with the key, and
the chosen one is not pinned. -/
theorem choose_stale_or_unpinned (c : Cache) (k : Key) (e : EntryIx) (h : c.choose k = some e) :
    c.entry e = .stale k ∨ (∀ j, c.entry j ≠ .stale k) ∧ (c.entry e).pinned = false := by
  rw [Cache.choose_eq_some] at h
  rcases h with ⟨hstale, -⟩ | ⟨hnone, hfree, -⟩ | ⟨hnone, -, -, -, -, hevict, -⟩
  · exact .inl hstale
  · exact .inr ⟨hnone, by rw [hfree]; rfl⟩
  · refine .inr ⟨hnone, ?_⟩
    cases hx : c.entry e <;> simp_all [Entry.evictable, Entry.pinned]

theorem heldEntry_key? (h : Held) (k : Key) (p : Bool) : (h.entry k p).key? = some k := by cases h <;> rfl

theorem heldEntry_pinned (h : Held) (k : Key) (p : Bool) : (h.entry k p).pinned = p := by cases h <;> rfl

theorem key?_of_answers (x : Entry) (k : Key) (h : x.answers k = true) : x.key? = some k :=
  ((Entry.answers_iff k x).mp h).1

/-- The cache with an install of `k` made for the waiters `ws` (R70). -/
def installedFor (s : State) (k : Key) (ws : List Waiter) (h : Held) (e : EntryIx) : Cache :=
  s.cache.install e (h.entry k ((s.cache.entry e).staleOf k || s.pinWaits ws))

/-- A PIN that waits for this install waits for its key. -/
theorem pin_key_of_waits (s : State) (i : FetchIx) (k : Key) (ws : List Waiter)
    (hplaces : slotKeys (s.fetch.slot i) = commandPlaces k ws) (hmem : Waiter.command ∈ ws) (h : s.PinsOk) (k' : Key)
    (hphase : s.engine.phase = .executing (.pin k')) : k' = k := by
  have hsub : ∀ x ∈ slotKeys (s.fetch.slot i), x ∈ s.fetch.commandKeys := by
    intro x hx
    rw [commandKeys_eq, List.mem_append, List.mem_append]
    rcases (by decide : ∀ i : FetchIx, i = 0 ∨ i = 1) i with rfl | rfl
    · exact .inl (.inl hx)
    · exact .inl (.inr hx)
  have hk : k ∈ s.fetch.commandKeys :=
    hsub k (by
      rw [hplaces, commandPlaces, List.mem_map]
      exact ⟨.command, List.mem_filter.mpr ⟨hmem, by simp⟩, rfl⟩)
  obtain ⟨-, -, hnil | ⟨k₁, hone, hfetch⟩⟩ := h
  · rw [hnil] at hk
    cases hk
  · rw [hone, List.mem_singleton] at hk
    rw [hphase] at hfetch
    exact (Option.some.inj hfetch).trans hk.symm

/-- An install keeps the pins within their bound, and the place of a PIN that goes on waiting. -/
theorem pins_installedFor (s : State) (i : FetchIx) (k : Key) (ws : List Waiter) (h : Held) (e : EntryIx)
    (hkey : (s.fetch.slot i).key? = some k) (hplaces : slotKeys (s.fetch.slot i) = commandPlaces k ws)
    (he : s.cache.choose k = some e) (hkeys : s.KeysOk) (hpins : s.PinsOk) :
    (installedFor s k ws h e).pinCount ≤ 12 ∧ (Waiter.command ∉ ws → ∀ k', s.engine.phase = .executing (.pin k') →
      (installedFor s k ws h e).pinnedOf k' ≠ none ∨ (installedFor s k ws h e).pinCount < 12) := by
  have hsame : SamePins s.cache (installedFor s k ws h e) → _ := fun hs =>
    show (installedFor s k ws h e).pinCount ≤ 12 ∧ (Waiter.command ∉ ws → ∀ k', s.engine.phase = .executing (.pin k') →
      (installedFor s k ws h e).pinnedOf k' ≠ none ∨ (installedFor s k ws h e).pinCount < 12) by
    rw [hs.pinCount]
    exact ⟨hpins.1, fun _ k' hk' => by rw [hs.pinnedOf]; exact hpins.2.1 k' hk'⟩
  rcases choose_stale_or_unpinned s.cache k e he with hstale | ⟨hnone, hunpinned⟩
  · refine hsame (samePins_of_one _ _ e _ (install_entry s.cache e · _) ?_ fun _ => ?_)
    · rw [heldEntry_pinned, hstale]
      simp [Entry.staleOf, Entry.pinned]
    · rw [heldEntry_key?, hstale]
      rfl
  · have hnotStale : (s.cache.entry e).staleOf k = false := by
      rw [Bool.eq_false_iff, ne_eq, Entry.staleOf_iff]
      exact hnone e
    by_cases hwaits : s.pinWaits ws = true
    · obtain ⟨hmem, k', hphase⟩ : Waiter.command ∈ ws ∧ ∃ k', s.engine.phase = .executing (.pin k') := by
        simp only [State.pinWaits, Bool.and_eq_true, List.contains_iff_mem] at hwaits
        refine ⟨hwaits.1, ?_⟩
        rcases hp : s.engine.phase with _ | _ | c | _
        case executing => cases c <;> simp [hp, EnginePhase.isPin] at hwaits ⊢
        all_goals simp [hp, EnginePhase.isPin] at hwaits
      obtain rfl := pin_key_of_waits s i k ws hplaces hmem hpins k' hphase
      have hroom : s.cache.pinCount < 12 := by
        refine (hpins.2.1 k' hphase).resolve_left fun hp => hp ?_
        rw [Cache.pinnedOf_eq_none]
        exact fun j _ hj => hnone j (stale_of_fetched s i k' hkey hkeys j hj)
      have hsucc := pinCount_le_succ s.cache (installedFor s k' ws h e) e fun j hj => by
        rw [installedFor, install_entry, if_neg (Ne.symm hj)]
      exact ⟨by omega, fun hnot => absurd hmem hnot⟩
    · refine hsame (samePins_of_one _ _ e _ (install_entry s.cache e · _) ?_ fun hp => ?_)
      · simp [heldEntry_pinned, hnotStale, hwaits, hunpinned]
      · rw [hunpinned] at hp
        cases hp

/-- An install ends its fetch. -/
theorem endsFetch_installedFor (s : State) (i : FetchIx) (k : Key) (ws : List Waiter) (h : Held) (e : EntryIx)
    (l : List FetchIx) (key : (s.fetch.slot i).key? = some k)
    (places : slotKeys (s.fetch.slot i) = commandPlaces k ws) (asking : (s.fetch.slot i).isAsking = false)
    (installs : s.fetch.InstallsListed →
      l.Nodup ∧ i ∉ l ∧ ∀ f, f ≠ i → (f ∈ l ↔ (s.fetch.slot f).installKey? ≠ none))
    (he : s.cache.choose k = some e) : EndsFetch s i k ws (installedFor s k ws h e) l where
  key := key
  places := places
  asking := asking
  installs := installs
  cache hc := Cache.install_ok _ _ _ hc (Cache.choose_noMarks _ _ _ he) (Held.entry_isFree _ _ _)
    (Held.entry_hasMarks _ _ _)
  entries hkeys a b k' ha hb := by
    have honly : ∀ j, (s.cache.entry j).key? = some k → j = e := by
      intro j hj
      have hstale := stale_of_fetched s i k key hkeys j hj
      rcases choose_stale_or_unpinned s.cache k e he with hs | ⟨hnone, -⟩
      · exact hkeys.1 j e k hj (by rw [hs]; rfl)
      · exact absurd hstale (hnone j)
    rw [installedFor, install_entry] at ha hb
    by_cases hea : e = a <;> by_cases heb : e = b
    · rw [← hea, ← heb]
    · rw [if_pos hea, heldEntry_key?, Option.some.injEq] at ha
      rw [if_neg heb, ← ha] at hb
      exact absurd (honly b hb).symm heb
    · rw [if_pos heb, heldEntry_key?, Option.some.injEq] at hb
      rw [if_neg hea, ← hb] at ha
      exact absurd (honly a ha).symm hea
    · rw [if_neg hea] at ha
      rw [if_neg heb] at hb
      exact hkeys.1 a b k' ha hb
  answers j k' hj := by
    rw [installedFor, install_entry] at hj
    split at hj
    case isTrue =>
      left
      have hk := key?_of_answers _ _ hj
      rw [heldEntry_key?, Option.some.injEq] at hk
      exact hk.symm
    case isFalse => exact .inr ⟨j, hj⟩
  pins := pins_installedFor s i k ws h e key places he

/-- The oldest waiting install, when it is made (R71). -/
theorem kept_makeWaitingInstall (s : State) : Kept s s.makeWaitingInstall := by
  rcases s.makeWaitingInstall_cases with h | ⟨i, rest, k, ws, n, p, held, e, hl, hs, he, h⟩
  · rw [h]
    exact Kept.refl s
  · rw [h]
    refine kept_fetchEnded s i k ws _ (installedFor s k ws held e) rest
      (endsFetch_installedFor s i k ws held e rest (by rw [hs]; rfl) (by rw [hs]; rfl) (by rw [hs]; rfl) (fun hi => ?_) he)
    have herase := installsListed_erase s.fetch i hi
    rwa [hl, List.erase_cons_head] at herase

theorem kept_settle (s : State) : Kept s s.settle := by
  unfold State.settle
  split
  · exact Kept.refl s
  · exact (kept_makeWaitingInstall s).trans (kept_makeWaitingInstall _)

/-! ## Completed and failed table reads (R93 to R97) -/

/-- A slot taken without effect after the acceptance of SOFT_RESET (R103). -/
theorem kept_takenInReset (s : State) (i : FetchIx) (k : Key) (ws : List Waiter) (ov : Bool) (n : Nat) (p : Place)
    (h : s.fetch.slot i = .reading k ws ov n (.queued p)) (hr : s.sequence.inReset = true) :
    Kept s { s with fetch := s.fetch.setSlot i (.reading k ws ov n .asking) } := by
  refine kept_fetchSlot s i _ _ rfl (by rw [h]; rfl) (by rw [h]; rfl) rfl fun _ hl => ⟨fun hn => ?_, fun hn => ?_⟩
  · exact absurd (hr.symm.trans hn) (by simp)
  · exact absurd hn (not_resetAnswer_of_busy s i (by rw [h]; simp [FetchSlot.key?]) hl)

theorem kept_installOrWait (s : State) (i : FetchIx) (k : Key) (ws : List Waiter) (n : Nat) (p : Place) (held : Held)
    (h : s.fetch.slot i = .reading k ws false n (.queued p)) : Kept s (s.installOrWait i k ws n p held) := by
  unfold State.installOrWait
  split
  case h_1 e he =>
    exact kept_fetchEnded s i k ws _ (installedFor s k ws held e) s.fetch.installs
      (endsFetch_installedFor s i k ws held e _ (by rw [h]; rfl) (by rw [h]; rfl) (by rw [h]; rfl)
        (installsListed_apart s.fetch i (by rw [h]; rfl)) he)
  case h_2 =>
    refine kept_fetchSlot s i (.installing k ws n p held) _ rfl (by rw [h]; rfl) (by rw [h]; rfl) rfl fun _ =>
      fetchListsOk_of_busy s _ i (by rw [h]; simp [FetchSlot.key?]) rfl fun ha hi => ?_
    refine ⟨s.fetch.setSlot_asksListed i _ ha (by rw [h]; rfl), ?_⟩
    obtain ⟨hnodup, hnot, hother⟩ := installsListed_apart s.fetch i (by rw [h]; rfl) hi
    refine ⟨List.nodup_append.mpr ⟨hnodup, by simp, ?_⟩, fun f => ?_⟩
    · rintro a ha b hb rfl
      rw [List.mem_singleton] at hb
      exact hnot (hb ▸ ha)
    · by_cases hf : i = f
      · subst hf
        simp [FetchUnit.setSlot, FetchUnit.slot, FetchSlot.installKey?]
      · have hmem : f ∈ s.fetch.installs ++ [i] ↔ f ∈ s.fetch.installs := by simp [Ne.symm hf]
        simp only [FetchUnit.setSlot, FetchUnit.slot, peek_poke, if_neg hf]
        rw [hmem]
        exact hother f (Ne.symm hf)

theorem kept_fetchCompleted (s : State) (i : FetchIx) (bytes : List Byte) : Kept s (s.fetchCompleted i bytes) := by
  unfold State.fetchCompleted
  split
  case h_1 k ws ov n p h =>
    split
    case isTrue hr => exact kept_takenInReset s i k ws ov n p h hr
    case isFalse =>
      split
      case isTrue => exact kept_reissueOrFail_reading s i k ws ov n p h
      case isFalse hov =>
        rw [Bool.not_eq_true] at hov
        subst hov
        split
        · exact kept_installOrWait s i k ws n p _ h
        · exact kept_endFetch_reading s i k ws false n p _ h
        · exact kept_installOrWait s i k ws n p _ h
  case h_2 => exact Kept.refl s

theorem kept_fetchFailed (s : State) (i : FetchIx) : Kept s (s.fetchFailed i) := by
  unfold State.fetchFailed
  split
  case h_1 k ws ov n p h =>
    split
    case isTrue hr => exact kept_takenInReset s i k ws ov n p h hr
    case isFalse => exact kept_endFetch_reading s i k ws ov n p _ h
  case h_2 => exact Kept.refl s

/-! ## Misses (R87) -/

/-- Where a miss goes: to the slot that holds the key, to an IDLE slot, or to the wait list. -/
theorem placeMiss_cases (u : FetchUnit) (k : Key) (w : Waiter) :
    (∃ f, (u.slot f).key? = some k ∧ u.placeMiss k w = u.setSlot f ((u.slot f).attach w)) ∨
      (∀ f, (u.slot f).key? ≠ some k) ∧
        ((∃ f, u.slot f = .idle ∧ u.placeMiss k w = u.begin f k [w]) ∨
          (∀ f, u.slot f ≠ .idle) ∧ u.placeMiss k w = { u with waitList := u.waitList ++ [{ waiter := w, key := k }] }) := by
  unfold FetchUnit.placeMiss
  split
  case h_1 f hf =>
    rw [find_allFetchSlots, decide_eq_true_eq] at hf
    exact .inl ⟨f, hf.1, rfl⟩
  case h_2 hnone =>
    simp only [find_allFetchSlots_none, decide_eq_false_iff_not] at hnone
    refine .inr ⟨hnone, ?_⟩
    split
    case h_1 f hf =>
      rw [find_allFetchSlots, FetchSlot.isIdle_iff] at hf
      exact .inl ⟨f, hf.1, rfl⟩
    case h_2 hbusy =>
      simp only [find_allFetchSlots_none, Bool.eq_false_iff, ne_eq, FetchSlot.isIdle_iff] at hbusy
      exact .inr ⟨hbusy, rfl⟩

/-- A miss keeps every key in one place: no entry answers the key. -/
theorem keysOk_placeMiss (s u : State) (k : Key) (w : Waiter) (hmiss : s.cache.find k = none) (hcache : u.cache = s.cache)
    (hfetch : u.fetch = s.fetch.placeMiss k w) (h : s.KeysOk) : u.KeysOk := by
  rw [Cache.find_eq_none] at hmiss
  rcases placeMiss_cases s.fetch k w with ⟨f, hf, hp⟩ | ⟨hnone, ⟨f, hf, hp⟩ | ⟨hbusy, hp⟩⟩
  · refine keysOk_of_keys s u (by simp [hcache]) (by simp [hcache]) (fun g => ?_) (by rw [hfetch, hp]; rfl) h
    simp only [hfetch, hp, FetchUnit.setSlot, FetchUnit.slot, peek_poke]
    split
    case isTrue he => subst he; cases peek s.fetch.slots f <;> rfl
    case isFalse => rfl
  · obtain ⟨hentries, hfetches, hapart, hwaiting⟩ := h
    have hempty : s.fetch.waitList = [] := List.eq_nil_iff_forall_not_mem.mpr fun a ha => by
      have := ((hwaiting a ha).1 f).2
      rw [hf] at this
      cases this
    have hslot : ∀ g, u.fetch.slot g = if f = g then .reading k [w] false 1 .asking else s.fetch.slot g := fun g => by
      rw [hfetch, hp]
      exact peek_poke _ _ _ _
    refine ⟨by simpa only [hcache] using hentries, fun g g' k' hg hg' => ?_, fun g k' hg => ?_, fun a ha => ?_⟩
    · rw [hslot] at hg hg'
      by_cases hfg : f = g <;> by_cases hfg' : f = g'
      · rw [← hfg, ← hfg']
      · rw [if_pos hfg] at hg
        rw [if_neg hfg'] at hg'
        cases hg
        exact absurd hg' (hnone g')
      · rw [if_pos hfg'] at hg'
        rw [if_neg hfg] at hg
        cases hg'
        exact absurd hg (hnone g)
      · rw [if_neg hfg] at hg
        rw [if_neg hfg'] at hg'
        exact hfetches g g' k' hg hg'
    · rw [hslot] at hg
      rw [hcache]
      split at hg
      case isTrue => cases hg; exact hmiss
      case isFalse => exact hapart g k' hg
    · rw [hfetch, hp, FetchUnit.begin, hempty] at ha
      cases ha
  · obtain ⟨hentries, hfetches, hapart, hwaiting⟩ := h
    have hslot : ∀ g, u.fetch.slot g = s.fetch.slot g := fun g => by rw [hfetch, hp]; rfl
    refine ⟨by simpa only [hcache] using hentries, by simpa only [hslot] using hfetches,
      by simpa only [hslot, hcache] using hapart, fun a ha => ?_⟩
    simp only [hslot, hcache]
    rw [hfetch, hp, List.mem_append, List.mem_singleton] at ha
    rcases ha with ha | rfl
    · exact hwaiting a ha
    · refine ⟨fun g => ⟨hnone g, ?_⟩, hmiss⟩
      rw [Bool.eq_false_iff, ne_eq, FetchSlot.isIdle_iff]
      exact hbusy g

/-- A miss puts its waiter where the command is looked for, once. -/
theorem commandKeys_placeMiss (u : FetchUnit) (k : Key) (w : Waiter) :
    (u.placeMiss k w).commandKeys.Perm (u.commandKeys ++ commandPlaces k [w]) := by
  rcases placeMiss_cases u k w with ⟨f, hf, hp⟩ | ⟨-, ⟨f, hf, hp⟩ | ⟨-, hp⟩⟩
  · have hattach : slotKeys ((u.slot f).attach w) = slotKeys (u.slot f) ++ commandPlaces k [w] := by
      cases hs : u.slot f with
      | idle => rw [hs] at hf; cases hf
      | reading k' ws ov n ph =>
        rw [hs] at hf; cases hf
        simp [FetchSlot.attach, slotKeys, commandPlaces]
      | installing k' ws n p h =>
        rw [hs] at hf; cases hf
        simp [FetchSlot.attach, slotKeys, commandPlaces]
    have hpoke := commandKeys_poke u (u.placeMiss k w) f _ (by rw [hp]; rfl)
    rw [List.perm_iff_count] at hpoke ⊢
    intro x
    have hx := hpoke x
    rw [hattach] at hx
    rw [hp] at hx ⊢
    simp only [List.count_append, FetchUnit.setSlot] at hx ⊢
    omega
  · have hpoke := commandKeys_poke u (u.placeMiss k w) f (.reading k [w] false 1 .asking) (by rw [hp]; rfl)
    rw [List.perm_iff_count] at hpoke ⊢
    intro x
    have hx := hpoke x
    rw [hf] at hx
    rw [hp] at hx ⊢
    simp only [List.count_append, FetchUnit.begin, slotKeys, List.count_nil] at hx ⊢
    omega
  · rw [hp, commandKeys_eq, commandKeys_eq]
    cases w <;> simp [listKeys, commandPlaces, FetchUnit.slot]

end Sys2Proof.Proofs
end

section
/-! PROOFS. The memory port, the intake and the phases of SOFT_RESET: each operation keeps the invariants. -/

namespace Sys2Proof.Proofs

open Sys2Proof.Machine Sys2Proof.Claims

/-! ## The memory port -/

/-- A change of the memory port alone. -/
theorem kept_port (s : State) (p : Port) (h : s.port.Ok → p.Ok) : Kept s { s with port := p } where
  port := h

/-- A port with the same queue, discards, timing records and beat under way. -/
theorem portOk_congr (p q : Port) (hqueue : q.queue = p.queue) (hcurrent : q.current = p.current)
    (hdiscards : q.discards = p.discards) (htiming : q.timing = p.timing) (h : p.Ok) : q.Ok := by
  simpa only [Port.Ok, Port.forwardedOf, hqueue, hcurrent, hdiscards, htiming] using h

/-- Another beat of the operation in progress, or another period of its beat. -/
theorem portOk_current (p q : Port) (pr : Progress) (hqueue : q.queue = p.queue) (hne : p.queue ≠ [])
    (hcurrent : q.current = some pr) (hdiscards : q.discards = p.discards) (htiming : q.timing = p.timing)
    (hpr : p.Ok → pr.Ok) (h : p.Ok) : q.Ok := by
  have hok := hpr h
  obtain ⟨hlength, hforward, -, hdisc, hlimit, -⟩ := h
  refine ⟨by rw [hqueue]; exact hlength, fun o => ?_, fun _ => by rw [hqueue]; exact hne, by rw [hdiscards]; exact hdisc,
    by rw [htiming]; exact hlimit, fun pr' hpr' => ?_⟩
  · rw [Port.forwardedOf_congr hqueue]
    exact hforward o
  · rw [hcurrent] at hpr'
    cases hpr'
    exact hok

theorem portOk_tryStart (p : Port) (h : p.Ok) : p.tryStart.Ok := by
  rcases p.tryStart_cases with hs | ⟨-, op, rest, hq, -, hs⟩
  · rw [hs]
    exact h
  · rw [hs, Port.start]
    split
    case h_1 => exact h
    case h_2 b bs _ =>
      exact portOk_current p _ _ rfl (by rw [hq]; simp) rfl rfl rfl (fun h => ⟨h.2.2.2.2.1 _, trivial⟩) h

theorem portOk_elapse (p : Port) (n : Nat) (sel : Option Target) (h : p.Ok) : (p.elapse n sel).Ok :=
  portOk_congr p _ rfl rfl rfl rfl h

/-- The head operation leaves (R129). -/
theorem portOk_leave (p : Port) (pr : Progress) (op : MemOp) (rest : List MemOp) (hq : p.queue = op :: rest) (h : p.Ok) :
    (p.leave pr op rest).Ok := by
  obtain ⟨hlength, hforward, -, hdisc, hlimit, -⟩ := h
  refine ⟨?_, fun o => (p.forwardedOf_leave_le pr op rest hq o).trans (hforward o), fun hc => absurd rfl hc, hdisc, hlimit,
    fun pr' hpr' => by cases hpr'⟩
  rw [hq, List.length_cons] at hlength
  exact Nat.le_of_succ_le hlength

/-- An operation enters a queue that has room, and room for its originator (R119, R121). -/
theorem portOk_enter (p : Port) (op : MemOp) (hroom : p.queue.length < queueCapacity)
    (hforward : ∀ o, op.forwardOrg? = some o → p.forwardedOf o < forwardCapacity) (h : p.Ok) : (p.enter op).Ok := by
  refine portOk_tryStart _ ?_
  obtain ⟨-, hforward', -, hdisc, hlimit, hpr⟩ := h
  refine ⟨by simpa using hroom, fun o => ?_, fun _ => by simp, hdisc, hlimit, hpr⟩
  have hcount : Port.forwardedOf { p with queue := p.queue ++ [op] } o =
      p.forwardedOf o + if op.forwardOrg? = some o then 1 else 0 := by
    rw [← p.forwardedOf_enter op o, Port.enter, Port.forwardedOf_tryStart]
  rw [hcount]
  split
  case isTrue ho => exact hforward o ho
  case isFalse => exact hforward' o

theorem kept_tryStart (s : State) : Kept s { s with port := s.port.tryStart } := kept_port s _ (portOk_tryStart _)

theorem kept_elapse (s : State) (n : Nat) : Kept s (s.elapse n) := kept_port s _ (portOk_elapse _ _ _)

/-- The beat under way enters a period that its timing record allows. -/
theorem kept_setPhase (s : State) (pr : Progress) (ph : BeatPhase) (hc : s.port.current = some pr)
    (hph : pr.Ok → Progress.Ok { pr with phase := ph }) : Kept s (s.setPhase pr ph) := by
  refine kept_port s _ fun h => portOk_current s.port _ _ rfl (h.2.2.1 (by simp [hc])) rfl rfl rfl (fun h => ?_) h
  exact hph (h.2.2.2.2.2 pr hc)

/-! ## The phases of SOFT_RESET and the switch of ENGAGE -/

/-- A sequence in a reset phase has SOFT_RESET executing. -/
theorem phase_softReset_of_sequence (s : State) (x : Sequence) (hx : x.inReset = true) (h : s.sequence = x)
    (hs : s.SequenceOk) : s.engine.phase = .executing .softReset :=
  hs.2 (by rw [h]; exact hx)

/-- An empty cache holds no key. -/
theorem keysOk_of_emptyCache (s u : State) (hcache : u.cache = .reset) (hfetch : u.fetch = s.fetch) (h : s.KeysOk) :
    u.KeysOk := by
  have hfree : ∀ i, u.cache.entry i = .free := fun i => by simp [hcache, Cache.reset, Cache.entry]
  refine keysOk_of_narrows s u (fun i => ⟨fun k hk => ?_, fun k hk => ?_⟩) hfetch h
  · rw [hfree] at hk
    cases hk
  · rw [hfree] at hk
    cases hk

/-- An empty fetch unit fetches no key. -/
theorem keysOk_of_emptyFetch (s u : State) (hcache : u.cache = s.cache) (hfetch : u.fetch = .reset) (h : s.KeysOk) :
    u.KeysOk := by
  have hnone : ∀ f, (u.fetch.slot f).key? = none := fun f => by
    simp [hfetch, FetchUnit.reset, FetchUnit.slot, FetchSlot.key?]
  refine ⟨by simpa only [hcache] using h.1, fun f g k hf => ?_, fun f k hf => ?_, fun a ha => ?_⟩
  · rw [hnone] at hf
    cases hf
  · rw [hnone] at hf
    cases hf
  · rw [hfetch] at ha
    cases ha

theorem kept_resetClear (s : State) (hseq : s.sequence = .resetAnswer) : Kept s s.resetClear where
  port := fun ⟨hlength, hforward, hcurrent, _, hlimit, hpr⟩ =>
    ⟨hlength, hforward, hcurrent, Nat.zero_le _, hlimit, hpr⟩
  log _ := FaultLog.afterSoftReset_ok _ _
  cache _ := Cache.reset_ok
  sequence _ := sequenceOk_of_none _ rfl
  keys := keysOk_of_emptyCache s _ rfl rfl
  pins _ hs hp := by
    have hphase := phase_softReset_of_sequence s _ rfl hseq hs
    exact pinsOk_of_nil _ (show Cache.reset.pinCount ≤ 12 by decide) (fun _ => by simp [State.resetClear])
      (commandKeys_nil_of_fetchKey s (by rw [hphase]; rfl) hp)
  lists _ hl := by
    refine ⟨fun _ => ?_, fun h => by cases h⟩
    rw [show s.resetClear.fetch = s.fetch from rfl, hl.2 hseq]
    exact FetchUnit.reset_listed

/-- The completion of SOFT_RESET (R164). -/
theorem kept_checkAnswered (s : State) : Kept s s.checkAnswered := by
  unfold State.checkAnswered
  split
  case isTrue hc => exact kept_resetClear s hc.1
  case isFalse => exact Kept.refl s

theorem refuseReset_heldBy (x : Slot) (o : Originator) : x.refuseReset.heldBy o = x.heldBy o := by
  rcases x with _ | ⟨a, d, st⟩
  · rfl
  · cases st <;> rfl

theorem refuseReset_inResolution (x : Slot) : x.refuseReset.inResolution = false := by
  rcases x with _ | ⟨a, d, st⟩
  · rfl
  · cases st <;> rfl

theorem refuseReset_isAnswered (x : Slot) (h : x.isAnswered = true) : x.refuseReset.isAnswered = true := by
  rcases x with _ | ⟨a, d, st⟩
  · cases h
  · cases st <;> rfl

/-- The memory release (R61, R137, R162), once no operation is in progress. -/
theorem kept_memoryRelease (s : State) (hcurrent : s.port.current = none)
    (hphase : s.SequenceOk → s.engine.phase = .executing .softReset) : Kept s s.memoryRelease := by
  rw [State.memoryRelease_eq]
  refine Kept.trans ?_ (kept_checkAnswered _)
  exact {
    port := fun ⟨hlength, _, _, _, hlimit, _⟩ =>
      ⟨Nat.zero_le _, fun _ => Nat.zero_le _, fun hc => absurd hcurrent hc,
        (List.length_filter_le _ _).trans hlength, hlimit, fun pr hpr => absurd (hcurrent.symm.trans hpr) (by simp)⟩
    intake := intakeOk_of_slots s _ rfl rfl (fun i o => by rw [State.releaseStart_slot, refuseReset_heldBy])
      (fun i hi => absurd ((s.releaseStart_slot i ▸ hi : _)) (by rw [refuseReset_inResolution]; simp))
      (fun i hi => by rw [State.releaseStart_slot]; exact refuseReset_isAnswered _ hi)
    sequence := fun h => ⟨fun hs => (by cases hs), fun _ => hphase h⟩
    keys := keysOk_of_emptyFetch s _ rfl rfl
    pins := fun _ _ ⟨hcount, hplace, _⟩ => ⟨hcount, hplace, .inl (show FetchUnit.reset.commandKeys = [] by decide)⟩
    lists := fun _ _ => ⟨fun h => (by cases h), fun _ => rfl⟩ }

/-- The switch of ENGAGE (R159). -/
theorem kept_checkEngaged (s : State) : Kept s s.checkEngaged := by
  unfold State.checkEngaged
  split
  case isTrue hc =>
    obtain ⟨hseq, -⟩ := hc
    exact {
      sequence := fun _ => sequenceOk_of_none _ rfl
      pins := fun _ hs hp => pinsOk_of_nil _ hp.1 (fun _ => by simp)
        (commandKeys_nil_of_fetchKey s (by rw [hs.1 hseq]; rfl) hp)
      lists := fun _ hl => ⟨fun _ => hl.1 (by rw [hseq]; rfl), fun h => (by cases h)⟩ }
  case isFalse => exact Kept.refl s

/-! ## The end of a memory operation -/

theorem kept_setMem (s : State) (m : List Host.Cell) (h : Memory.Wf s.mem → Memory.Wf m) :
    Kept s { s with mem := m } where
  memory := h

theorem answerRead_port (s : State) (i : SlotIx) (bytes : List Byte) : (s.answerRead i bytes).port = s.port := by
  unfold State.answerRead
  split <;> rfl

theorem kept_answerRead (s : State) (i : SlotIx) (bytes : List Byte) : Kept s (s.answerRead i bytes) := by
  unfold State.answerRead
  split
  · exact kept_answer s i _ _
  · exact Kept.refl s

theorem timeoutRead_port (s : State) (i : SlotIx) : (s.timeoutRead i).port = s.port := by
  unfold State.timeoutRead
  split <;> rfl

theorem kept_timeoutRead (s : State) (i : SlotIx) : Kept s (s.timeoutRead i) := by
  unfold State.timeoutRead
  split
  · exact kept_answer s i _ _
  · exact Kept.refl s

theorem endFetch_port (s : State) (i : FetchIx) (k : Key) (ws : List Waiter) (o : FetchOutcome) :
    (s.endFetch i k ws o).port = s.port := by
  rw [State.endFetch_eq]
  exact (s.wakeAll_wakeFrame k o ws).port

theorem installOrWait_port (s : State) (i : FetchIx) (k : Key) (ws : List Waiter) (n : Nat) (p : Place) (h : Held) :
    (s.installOrWait i k ws n p h).port = s.port := by
  unfold State.installOrWait
  split
  · exact (s.makeInstall_frame i k ws h _).port
  · rfl

theorem fetchCompleted_port (s : State) (i : FetchIx) (bytes : List Byte) : (s.fetchCompleted i bytes).port = s.port := by
  unfold State.fetchCompleted
  split
  · split
    · rfl
    · split
      · exact (s.reissueOrFail_voidFrame ..).port
      · split
        · exact installOrWait_port ..
        · exact endFetch_port ..
        · exact installOrWait_port ..
  · rfl

theorem fetchFailed_port (s : State) (i : FetchIx) : (s.fetchFailed i).port = s.port := by
  unfold State.fetchFailed
  split
  · split
    · rfl
    · exact endFetch_port ..
  · rfl

theorem handOver_port (s : State) (op : MemOp) (bytes : List Byte) : (s.handOver op bytes).port = s.port := by
  unfold State.handOver
  split
  · exact answerRead_port ..
  · rfl
  · exact fetchCompleted_port ..
  · rfl

theorem kept_handOver (s : State) (op : MemOp) (bytes : List Byte) : Kept s (s.handOver op bytes) := by
  unfold State.handOver
  split
  · exact kept_answerRead ..
  · exact Kept.refl s
  · exact kept_fetchCompleted ..
  · exact Kept.refl s

theorem handFailure_port (s : State) (op : MemOp) : (s.handFailure op).port = s.port := by
  unfold State.handFailure
  split
  · exact timeoutRead_port ..
  · rfl
  · exact fetchFailed_port ..
  · rfl

theorem kept_handFailure (s : State) (op : MemOp) : Kept s (s.handFailure op) := by
  unfold State.handFailure
  split
  · exact (kept_offer s _).trans (kept_timeoutRead _ _)
  · exact kept_offer s _
  · exact kept_fetchFailed ..
  · exact kept_offer s _

/-- The next operation starts, or the memory release follows (R128, R137). -/
theorem kept_afterOperation (s : State) (hcurrent : s.port.current = none) : Kept s s.afterOperation := by
  by_cases h : s.sequence = .resetMemory
  · rw [s.afterOperation_of_release h]
    exact kept_memoryRelease s hcurrent (phase_softReset_of_sequence s _ rfl h)
  · rw [s.afterOperation_of_run h]
    exact kept_tryStart s

theorem kept_finishBeat (s : State) : Kept s s.finishBeat := by
  rcases hc : s.port.current with _ | pr
  · rw [show s.finishBeat = s by simp only [State.finishBeat, hc]]
    exact Kept.refl s
  rcases hq : s.port.queue with _ | ⟨op, rest⟩
  · rw [show s.finishBeat = s by simp only [State.finishBeat, hc, hq]]
    exact Kept.refl s
  have hmem := kept_setMem s _ (op.memAfter_wf pr s.mem)
  rcases hb : pr.rest with _ | ⟨b, bs⟩
  · rw [s.finishBeat_of_last pr op rest hc hq hb]
    have hleave := kept_port { s with mem := op.memAfter pr s.mem } _ (portOk_leave s.port pr op rest hq)
    exact ((hmem.trans hleave).trans (kept_handOver _ op _)).trans
      (kept_afterOperation _ (by rw [handOver_port]; rfl))
  · rw [s.finishBeat_of_more pr op rest b bs hc hq hb]
    refine hmem.trans (kept_port _ _ fun h => portOk_current s.port _ _ rfl (by rw [hq]; simp) rfl rfl rfl (fun h => ?_) h)
    exact ⟨(h.2.2.2.2.2 pr hc).1, trivial⟩

theorem kept_abandonBeat (s : State) : Kept s s.abandonBeat := by
  rcases hc : s.port.current with _ | pr
  · rw [show s.abandonBeat = s by simp only [State.abandonBeat, hc]]
    exact Kept.refl s
  rcases hq : s.port.queue with _ | ⟨op, rest⟩
  · rw [show s.abandonBeat = s by simp only [State.abandonBeat, hc, hq]]
    exact Kept.refl s
  rw [s.abandonBeat_eq pr op rest hc hq]
  have hleave := kept_port s _ (portOk_leave s.port pr op rest hq)
  exact (hleave.trans (kept_handFailure _ op)).trans (kept_afterOperation _ (by rw [handFailure_port]; rfl))

/-! ## Periods of MCLK -/

theorem kept_freeCount (s : State) (n : Nat) : Kept s { s with freeCount := n } := {}

theorem kept_sampleExtend (s : State) (pr : Progress) (n : Nat) (hc : s.port.current = some pr) :
    Kept s (s.sampleExtend pr n) := by
  have htaken := kept_freeCount s (s.freeCount + 1)
  unfold State.sampleExtend
  split
  · split
    case isTrue => exact htaken.trans (kept_abandonBeat _)
    case isFalse hn => exact htaken.trans (kept_setPhase _ pr _ hc fun h => ⟨h.1, by simp only; omega⟩)
  · exact htaken.trans (kept_setPhase _ pr _ hc fun h => ⟨h.1, trivial⟩)

theorem kept_endPeriod (s : State) (pr : Progress) (hc : s.port.current = some pr) : Kept s (s.endPeriod pr) := by
  unfold State.endPeriod
  split
  case h_1 =>
    split
    case isTrue => exact kept_sampleExtend s pr 0 hc
    case isFalse hw =>
      refine kept_setPhase s pr _ hc fun h => ⟨h.1, ?_, le_refl _⟩
      exact Nat.one_le_iff_ne_zero.mpr fun h0 => hw (BitVec.eq_of_toNat_eq h0)
  case h_2 left hph =>
    split
    case isTrue => exact kept_sampleExtend s pr 0 hc
    case isFalse hl =>
      refine kept_setPhase s pr _ hc fun h => ?_
      have hok := h.2
      rw [hph] at hok
      exact ⟨h.1, by simp only; omega⟩
  case h_3 n _ => exact kept_sampleExtend s pr n hc
  case h_4 => exact kept_finishBeat s

theorem kept_period (s : State) : Kept s s.period := by
  unfold State.period
  split
  · exact Kept.refl s
  · split
    case h_1 pr hc => exact (kept_elapse s 1).trans (kept_endPeriod _ pr hc)
    case h_2 => exact (kept_elapse s 1).trans (kept_tryStart _)

theorem kept_expireRecovery (s : State) : Kept s s.expireRecovery := by
  unfold State.expireRecovery
  split
  · exact Kept.refl s
  · split
    · exact (kept_elapse s _).trans (kept_tryStart _)
    · exact Kept.refl s

theorem kept_completeBeat (s : State) (want : BeatEnd) (x : Nat) : Kept s (s.completeBeat want x) := by
  unfold State.completeBeat
  split
  · exact Kept.refl s
  · split
    · exact (kept_elapse s _).trans (kept_finishBeat _)
    · exact Kept.refl s

theorem kept_expireExtend (s : State) : Kept s s.expireExtend := by
  unfold State.expireExtend
  split
  · exact Kept.refl s
  · split
    · exact (kept_elapse s _).trans (kept_abandonBeat _)
    · exact Kept.refl s

end Sys2Proof.Proofs
end

section
/-! PROOFS. The front port, the check unit and the entry arbiter: each of their rows keeps the invariants. -/

namespace Sys2Proof.Proofs

open Sys2Proof.Machine Sys2Proof.Claims

/-! ## The front port -/

/-- An order list is as long as the originator's slots are many (R42, R46). -/
theorem order_length_eq_heldCount (s : State) (o : Originator) (h : s.IntakeOk) :
    (s.order o).length = s.heldCount o := by
  obtain ⟨hnodup, hmem⟩ := h.1 o
  refine List.Perm.length_eq ((List.perm_ext_iff_of_nodup hnodup ((by decide : allSlots.Nodup).filter _)).mpr fun i => ?_)
  rw [hmem i, List.mem_filter]
  simp

theorem acceptInto_slot (s : State) (i j : SlotIx) (r : FrontRequest) :
    (s.acceptInto i r).slot j = if i = j then .held (presentedAccess r) (keptData r) .queued else s.slot j := by
  rw [State.slot_eq, State.acceptInto_intake]
  exact peek_poke _ _ _ _

theorem acceptInto_order (s : State) (i : SlotIx) (r : FrontRequest) (o : Originator) :
    (s.acceptInto i r).order o = if r.org = o then s.order r.org ++ [i] else s.order o := by
  rw [State.order_eq, State.acceptInto_intake]
  exact peek_poke _ _ _ _

/-- Admission of a request into a FREE slot, its originator holding fewer than four (R42, R46). -/
theorem intakeOk_acceptInto (s : State) (i : SlotIx) (r : FrontRequest) (hfree : s.slot i = .free)
    (hquota : s.heldCount r.org < 4) (h : s.IntakeOk) : (s.acceptInto i r).IntakeOk := by
  have hlength := order_length_eq_heldCount s r.org h
  obtain ⟨hlist, hfour, hone, hpres⟩ := h
  have hnot : ∀ o, i ∉ s.order o := fun o hi => by
    have := ((hlist o).2 i).mp hi
    rw [hfree] at this
    cases this
  have hheld : ∀ j o, ((s.acceptInto i r).slot j).heldBy o = true ↔ (j = i ∧ r.org = o) ∨ (s.slot j).heldBy o = true := by
    intro j o
    rw [acceptInto_slot]
    split
    case isTrue he =>
      subst he
      rw [hfree]
      exact ⟨fun h => .inl ⟨rfl, of_decide_eq_true h⟩, fun h => h.elim (fun h => decide_eq_true h.2) (fun h => by cases h)⟩
    case isFalse hne => simp [Ne.symm hne]
  have hresolution : ∀ j, ((s.acceptInto i r).slot j).inResolution = true → i ≠ j ∧ (s.slot j).inResolution = true := by
    intro j hj
    rw [acceptInto_slot] at hj
    split at hj
    case isTrue => cases hj
    case isFalse hne => exact ⟨hne, hj⟩
  refine ⟨fun o => ?_, fun o => ?_, fun o j j' hj hj' hrj hrj' => ?_, fun j hj => ?_⟩
  · rw [acceptInto_order]
    split
    case isTrue ho =>
      subst ho
      refine ⟨List.nodup_append.mpr ⟨(hlist r.org).1, by simp, ?_⟩, fun j => ?_⟩
      · rintro a ha b hb rfl
        rw [List.mem_singleton] at hb
        exact hnot _ (hb ▸ ha)
      · rw [hheld, List.mem_append, List.mem_singleton, (hlist r.org).2 j]
        simp [or_comm]
    case isFalse ho =>
      refine ⟨(hlist o).1, fun j => ?_⟩
      rw [hheld, (hlist o).2 j]
      simp [ho]
  · rw [acceptInto_order]
    split
    case isTrue => simp only [List.length_append, List.length_singleton]; omega
    case isFalse => exact hfour o
  · obtain ⟨hne, hrj⟩ := hresolution j hrj
    obtain ⟨hne', hrj'⟩ := hresolution j' hrj'
    exact hone o j j' (((hheld j o).mp hj).resolve_left fun h => hne h.1.symm)
      (((hheld j' o).mp hj').resolve_left fun h => hne' h.1.symm) hrj hrj'
  · obtain ⟨hans, o, hhead⟩ := hpres j hj
    refine ⟨?_, o, ?_⟩
    · rw [acceptInto_slot]
      split
      case isTrue he => rw [← he, hfree] at hans; cases hans
      case isFalse => exact hans
    · rw [acceptInto_order]
      split
      case isTrue ho => rw [ho, List.head?_append, hhead]; rfl
      case isFalse => exact hhead

theorem admissionSlot_eq_some (s : State) (o : Originator) (i : SlotIx) (h : s.admissionSlot o = some i) :
    s.heldCount o < 4 ∧ s.slot i = .free := by
  unfold State.admissionSlot at h
  split at h
  case isTrue hc => exact ⟨hc.2, ((s.lowestFree_eq_some i).mp h).1⟩
  case isFalse => cases h

theorem kept_present (s : State) (r : FrontRequest) : Kept s (s.present r) := by
  unfold State.present
  split
  case h_1 i hi =>
    obtain ⟨hquota, hfree⟩ := admissionSlot_eq_some s r.org i hi
    exact { intake := intakeOk_acceptInto s i r hfree hquota }
  case h_2 => exact {}

theorem kept_presentOn (s : State) (r : Option FrontRequest) : Kept s (s.presentOn r) := by
  unfold State.presentOn
  split
  · exact kept_present s _
  · exact kept_present s _
  · exact Kept.refl s

/-- A response is presented when none is (R56, R57). -/
theorem kept_presentResponse (s : State) : Kept s s.presentResponse := by
  unfold State.presentResponse
  split
  case isTrue => exact Kept.refl s
  case isFalse =>
    split
    case h_1 o ho =>
      have hready := ((roundRobin_eq_some _ _ _).mp ho).1
      refine { intake := fun h => ⟨h.1, h.2.1, h.2.2.1, fun i hi => ⟨?_, o, hi⟩⟩ }
      have hi : (s.order o).head? = some i := hi
      show (s.slot i).isAnswered = true
      simpa only [State.presentable, hi] using hready
    case h_2 => exact Kept.refl s

/-- A slot that leaves its order list and becomes FREE (R58). -/
theorem kept_vacate (s : State) (i : SlotIx) (a : Access) (d : Option Data) (st : Stage) (hslot : s.slot i = .held a d st) :
    Kept s (s.vacate i a.org) where
  intake := by
    intro ⟨hlist, hfour, hone, _⟩
    have hheld : ∀ j o, ((s.vacate i a.org).slot j).heldBy o = true ↔ j ≠ i ∧ (s.slot j).heldBy o = true := by
      intro j o
      rw [State.vacate_slot]
      split
      case isTrue he => simp [he, Slot.heldBy]
      case isFalse hne => simp [Ne.symm hne]
    have hresolution : ∀ j, ((s.vacate i a.org).slot j).inResolution = true → (s.slot j).inResolution = true := by
      intro j hj
      rw [State.vacate_slot] at hj
      split at hj
      case isTrue => cases hj
      case isFalse => exact hj
    refine ⟨fun o => ?_, fun o => ?_, fun o j j' hj hj' hrj hrj' => ?_, fun j hj => by cases hj⟩
    · rw [State.vacate_order]
      split
      case isTrue ho =>
        subst ho
        refine ⟨(hlist a.org).1.erase i, fun j => ?_⟩
        rw [hheld, (hlist a.org).1.mem_erase_iff, (hlist a.org).2 j]
      case isFalse ho =>
        refine ⟨(hlist o).1, fun j => ?_⟩
        rw [hheld, (hlist o).2 j]
        refine ⟨fun hj => ⟨?_, hj⟩, fun hj => hj.2⟩
        rintro rfl
        rw [hslot, Slot.heldBy, decide_eq_true_eq] at hj
        exact ho hj
    · rw [State.vacate_order]
      split
      case isTrue ho => exact (List.length_erase_le).trans (hfour a.org)
      case isFalse => exact hfour o
    · exact hone o j j' ((hheld j o).mp hj).2 ((hheld j' o).mp hj').2 (hresolution j hrj) (hresolution j' hrj')

/-- A departure touches a drain set alone, of a command on which nothing else depends. -/
theorem kept_leaveDrain (s : State) (i : SlotIx) : Kept s (s.leaveDrain i) := by
  by_cases hoff : onDuty s.engine.phase = false
  · rw [State.leaveDrain_eq]
    refine kept_engine s _ hoff fun k hk => ?_
    rcases hp : s.engine.phase with _ | _ | c | _
    case executing =>
      cases c with
      | suspend o ds =>
        rw [s.leaveDrain_of_suspend i o ds hp] at hk
        split at hk <;> cases hk
      | originatorOff o ds =>
        rw [s.leaveDrain_of_originatorOff i o ds hp] at hk
        split at hk <;> cases hk
      | _ => rw [hp] at hoff; cases hoff
    all_goals
      simp only [State.leaveDrain, hp] at hk
      cases hk
  · rw [s.leaveDrain_of_other i fun c hc => ?_]
    · exact Kept.refl s
    · cases c <;> simp_all [onDuty, LongCommand.hasDrain]

theorem kept_depart (s : State) : Kept s s.depart := by
  unfold State.depart
  split
  case isTrue => exact Kept.refl s
  case isFalse =>
    split
    case h_1 => exact Kept.refl s
    case h_2 i _ =>
      split
      case h_1 => exact Kept.refl s
      case h_2 a d st hslot =>
        exact ((kept_vacate s i a d st hslot).trans (kept_leaveDrain _ i)).trans
          ((kept_checkEngaged _).trans (kept_checkAnswered _))

/-! ## Turns -/

theorem oldestQueued_eq_some (s : State) (o : Originator) (i : SlotIx) (h : s.oldestQueued o = some i) :
    i ∈ s.order o ∧ ∃ a d, s.slot i = .held a d .queued := by
  refine ⟨List.mem_of_find?_eq_some h, ?_⟩
  have hq := List.find?_some h
  cases hs : s.slot i with
  | free => simp [hs, Slot.isQueued] at hq
  | held a d st => cases st <;> simp [hs, Slot.isQueued] at hq ⊢

/-- A slot enters WAIT_FETCH when its originator has no other in resolution (R45). -/
theorem intakeOk_waitFetch (s : State) (i : SlotIx) (a : Access) (d : Option Data) (hslot : s.slot i = .held a d .queued)
    (hnone : ∀ j, (s.slot j).heldBy a.org = true → (s.slot j).inResolution = false) (h : s.IntakeOk) :
    (s.setStage i .waitFetch).IntakeOk := by
  have hstage := s.setStage_of_held i a d .queued .waitFetch hslot
  have hnew : ∀ j, (s.setStage i .waitFetch).slot j = if i = j then .held a d .waitFetch else s.slot j := fun j => by
    rw [hstage, State.setSlot_slot]
  have hheld : ∀ j o, ((s.setStage i .waitFetch).slot j).heldBy o = (s.slot j).heldBy o := by
    intro j o
    rw [hnew]
    split
    case isTrue he => rw [← he, hslot]; rfl
    case isFalse => rfl
  obtain ⟨hlist, hfour, hone, hpres⟩ := h
  refine ⟨fun o => ?_, hfour, fun o j j' hj hj' hrj hrj' => ?_, fun j hj => ?_⟩
  · simpa only [hheld, State.setStage_order] using hlist o
  · rw [hheld] at hj hj'
    rw [hnew] at hrj hrj'
    by_cases hij : i = j <;> by_cases hij' : i = j'
    · rw [← hij, ← hij']
    · rw [if_neg hij'] at hrj'
      rw [← hij, hslot, Slot.heldBy, decide_eq_true_eq] at hj
      rw [hnone j' (hj ▸ hj')] at hrj'
      cases hrj'
    · rw [if_neg hij] at hrj
      rw [← hij', hslot, Slot.heldBy, decide_eq_true_eq] at hj'
      rw [hnone j (hj' ▸ hj)] at hrj
      cases hrj
    · rw [if_neg hij] at hrj
      rw [if_neg hij'] at hrj'
      exact hone o j j' hj hj' hrj hrj'
  · obtain ⟨hans, hhead⟩ := hpres j hj
    refine ⟨?_, hhead⟩
    rw [hnew]
    split
    case isTrue he => rw [← he, hslot] at hans; cases hans
    case isFalse => exact hans

theorem find_notFree (c : Cache) (k : Key) (e : EntryIx) (h : c.find k = some e) : (c.entry e).isFree = false :=
  Entry.isFree_of_live _ ((Entry.answers_iff k _).mp ((c.find_eq_some k e).mp h).1).2

/-- The lists of the fetch unit when a miss is placed outside every sequence (R87). -/
theorem fetchListsOk_placeMiss (s u : State) (k : Key) (w : Waiter) (hseq : u.sequence = s.sequence)
    (hnone : s.sequence = .none) (hfetch : u.fetch = s.fetch.placeMiss k w) (h : s.FetchListsOk) : u.FetchListsOk := by
  refine ⟨fun _ => ?_, fun hr => ?_⟩
  · obtain ⟨hasks, hinstalls⟩ := h.1 (by rw [hnone]; rfl)
    rw [hfetch]
    exact s.fetch.placeMiss_listed k w hasks hinstalls
  · rw [hseq, hnone] at hr
    cases hr

/-- A request's miss adds no place of the command. -/
theorem commandKeys_placeMiss_request (u : FetchUnit) (k : Key) (i : SlotIx) :
    (u.placeMiss k (.request i)).commandKeys.Perm u.commandKeys := by
  simpa [commandPlaces] using commandKeys_placeMiss u k (.request i)

theorem pinsOk_of_perm (s u : State) (hcache : u.cache = s.cache) (hengine : u.engine = s.engine)
    (hfetch : u.fetch.commandKeys.Perm s.fetch.commandKeys) (h : s.PinsOk) : u.PinsOk := by
  obtain ⟨hcount, hplace, hwaits⟩ := h
  refine ⟨by rw [hcache]; exact hcount, by rw [hcache, hengine]; exact hplace, ?_⟩
  rw [hengine]
  rcases hwaits with hnil | ⟨k, hone, hk⟩
  · rw [hnil, List.perm_nil] at hfetch
    exact .inl hfetch
  · rw [hone, List.perm_singleton] at hfetch
    exact .inr ⟨k, hfetch, hk⟩

theorem kept_turnLookup (s : State) (i : SlotIx) (a : Access) (d : Option Data) (hslot : s.slot i = .held a d .queued)
    (hseq : s.sequence = .none)
    (hnone : s.IntakeOk → ∀ j, (s.slot j).heldBy a.org = true → (s.slot j).inResolution = false) :
    Kept s (s.turnLookup i a) := by
  unfold State.turnLookup
  split
  case h_1 e he =>
    have htouch := kept_touch s e (find_notFree _ _ _ he)
    split
    · exact htouch.trans (kept_resolveAgainst _ i a e _ (by
        rw [show State.slot { s with cache := s.cache.touch e } i = s.slot i from rfl, hslot]
        rfl))
    · exact htouch.trans (kept_refuse _ i a _ _ _ _)
  case h_2 hmiss =>
    exact {
      intake := fun h => intakeOk_waitFetch s i a d hslot (hnone h) h
      keys := keysOk_placeMiss s _ a.key (.request i) hmiss rfl rfl
      pins := fun _ _ => pinsOk_of_perm s _ rfl rfl (commandKeys_placeMiss_request s.fetch a.key i)
      lists := fun _ => fetchListsOk_placeMiss s _ a.key (.request i) rfl hseq rfl }

theorem kept_turnRun (s : State) (i : SlotIx) (a : Access) (d : Option Data) (hslot : s.slot i = .held a d .queued)
    (hseq : s.sequence = .none)
    (hnone : s.IntakeOk → ∀ j, (s.slot j).heldBy a.org = true → (s.slot j).inResolution = false) :
    Kept s (s.turnRun i a) := by
  unfold State.turnRun
  split
  · exact kept_refuse s i a _ _ _ _
  · exact kept_refuse s i a _ _ _ _
  · split
    · exact kept_refuse s i a _ _ _ _
    · exact kept_turnLookup s i a d hslot hseq hnone

theorem kept_turnBoot (s : State) (i : SlotIx) (a : Access) (d : Option Data) (hslot : s.slot i = .held a d .queued) :
    Kept s (s.turnBoot i a) := by
  unfold State.turnBoot
  split
  · exact kept_refuse s i a _ _ _ _
  · split
    · exact kept_setResolved s i _ (by rw [hslot]; rfl)
    · exact kept_refuse s i a _ _ _ _

theorem eligible_iff (s : State) (o : Originator) (i : SlotIx) (h : s.oldestQueued o = some i) :
    s.eligible o = true ↔ s.turnsGiven = true ∧ (∀ j ∈ s.order o, (s.slot j).inResolution = false) ∧ s.holds o i = false := by
  simp [State.eligible, h, and_assoc]

theorem kept_giveTurn (s : State) : Kept s s.giveTurn := by
  unfold State.giveTurn
  split
  case h_1 o ho =>
    split
    case h_1 i hi =>
      obtain ⟨hmem, a, d, hslot⟩ := oldestQueued_eq_some s o i hi
      obtain ⟨hgiven, hnone, -⟩ := (eligible_iff s o i hi).mp ((roundRobin_eq_some _ _ _).mp ho).1
      have hseq : s.sequence = .none := by
        simp only [State.turnsGiven, Bool.and_eq_true, decide_eq_true_eq] at hgiven
        exact hgiven.2
      have hpointer : Kept s (pointerBehind s o) := {}
      have hslot' : (pointerBehind s o).slot i = .held a d .queued := hslot
      rcases hmode : s.mode with _ | _
      · rw [turn_boot s o i a d .queued hslot hmode]
        exact hpointer.trans (kept_turnBoot _ i a d hslot')
      · have hturn : s.turn o i = (pointerBehind s o).turnRun i a := by
          simp only [State.turn, hslot, hmode, pointerBehind]
        rw [hturn]
        refine hpointer.trans (kept_turnRun _ i a d hslot' hseq fun h j hj => hnone j ?_)
        have horg : a.org = o := by
          have hheld := ((h.1 o).2 i).mp hmem
          rw [hslot', Slot.heldBy, decide_eq_true_eq] at hheld
          exact hheld
        exact ((h.1 o).2 j).mpr (horg ▸ hj)
    case h_2 => exact Kept.refl s
  case h_2 => exact Kept.refl s

/-! ## Entries -/

/-- A grant says that entry is open and the queue has room (R120). -/
theorem grant_open (s : State) (g : Grant) (h : s.grant = some g) :
    s.isOpen = true ∧ s.port.queue.length < queueCapacity := by
  unfold State.grant at h
  split at h
  case isTrue hc => exact hc
  case isFalse => cases h

theorem grant_tableRead (s : State) (i : FetchIx) (h : s.grant = some (.tableRead i)) : s.fetch.asks.head? = some i := by
  unfold State.grant at h
  split at h
  · split at h
    case h_1 j hj => cases h; exact hj
    case h_2 =>
      split at h
      case h_1 => cases h
      case h_2 =>
        unfold State.forwardGrant at h
        split at h
        case h_1 o _ => cases ho : s.forwardOffer o <;> simp [ho] at h
        case h_2 => cases h
  · cases h

/-- A forwarded operation enters behind the moved pointer. -/
theorem portOk_enterForward (s : State) (o : Originator) (op : MemOp) (a : Access)
    (hroom : s.port.queue.length < queueCapacity) (horg : op.forwardOrg? = some a.org)
    (hforward : s.port.forwardedOf a.org < 4) (h : s.port.Ok) :
    (Port.enter { s.port with forwardPtr := o + 1 } op).Ok := by
  refine portOk_enter _ op hroom (fun o' ho' => ?_) (portOk_congr s.port _ rfl rfl rfl rfl h)
  rw [horg, Option.some.injEq] at ho'
  subst ho'
  exact hforward

theorem kept_enterForward (s : State) (write : Bool) (o : Originator) (i : SlotIx) (h : s.grant = some (.forward o i)) :
    Kept s (s.enterForward write o i) := by
  obtain ⟨-, hroom⟩ := grant_open s _ h
  obtain ⟨a, d, t, hslot, hforward⟩ := s.grant_forward_slot o i h
  simp only [State.enterForward, hslot]
  split
  case isFalse => exact Kept.refl s
  case isTrue =>
    split
    case isTrue =>
      refine ((kept_answer s i (some t) (.done none)).trans (kept_port _ _ ?_)).trans (kept_invalidate _ _)
      exact portOk_enterForward s o _ a hroom rfl hforward
    case isFalse =>
      have hissued : Kept s (s.setStage i (.issued t)) :=
        { intake := fun hi => intakeOk_issued s i t hi (by rw [hslot]; rfl) }
      exact hissued.trans (kept_port _ _ (portOk_enterForward s o _ a hroom rfl hforward))

theorem kept_enterTableRead (s : State) (i : FetchIx) (h : s.grant = some (.tableRead i)) :
    Kept s (s.enterTableRead i) := by
  obtain ⟨hopen, hroom⟩ := grant_open s _ h
  have hhead := grant_tableRead s i h
  have hreset : s.sequence.inReset = false := by
    simp only [State.isOpen, Bool.and_eq_true, Bool.not_eq_true'] at hopen
    exact hopen.2
  unfold State.enterTableRead
  split
  case h_1 k ws ov n ph hs =>
    have hqueued : Kept s { s with fetch := { s.fetch.setSlot i (.reading k ws ov n (.queued (s.descriptorPlace k))) with
        asks := s.fetch.asks.erase i } } := by
      refine kept_fetchSlot s i (.reading k ws ov n (.queued (s.descriptorPlace k))) _ rfl (by rw [hs]; rfl)
        (by rw [hs]; rfl) rfl fun _ => fetchListsOk_of_busy s _ i (by rw [hs]; simp [FetchSlot.key?]) rfl fun ha hi => ?_
      refine ⟨⟨ha.1.erase i, fun f => ?_⟩, s.fetch.setSlot_installsListed i _ hi (by rw [hs]; exact Iff.rfl)⟩
      by_cases hf : i = f
      · subst hf
        simp [FetchUnit.setSlot, FetchUnit.slot, FetchSlot.isAsking, ha.1.not_mem_erase]
      · simp only [List.mem_erase_of_ne (Ne.symm hf)]
        rw [ha.2 f]
        simp [FetchUnit.setSlot, FetchUnit.slot, hf]
    have hnone : ∀ o, MemOp.forwardOrg? { place := s.descriptorPlace k, key := k, body := .tableRead i } ≠ some o :=
      fun o => by simp [MemOp.forwardOrg?]
    exact hqueued.trans (kept_port _ _ (portOk_enter s.port _ hroom fun o ho => absurd ho (hnone o)))
  case h_2 => exact Kept.refl s

theorem kept_enterStatusWrite (s : State) (e : EntryIx) (hroom : s.port.queue.length < queueCapacity) :
    Kept s (s.enterStatusWrite e) := by
  unfold State.enterStatusWrite
  split
  case h_1 k _ _ _ _ _ =>
    have hshared := (kept_sendStatus s e (s.sharer k)).trans (kept_share _ (s.sharer k) (s.cache.entry e).statusValue)
    have hnone : ∀ o, MemOp.forwardOrg?
        { place := s.statusPlace k, key := k, body := .statusWrite (s.cache.entry e).statusValue } ≠ some o :=
      fun o => by simp [MemOp.forwardOrg?]
    exact hshared.trans (kept_port _ _ (portOk_enter s.port _ hroom fun o ho => absurd ho (hnone o)))
  case h_2 => exact Kept.refl s

end Sys2Proof.Proofs
end

section
/-! PROOFS. The management link, the commands and the reset input keep the invariants, and so does every step. -/

namespace Sys2Proof.Proofs

open Sys2Proof.Machine Sys2Proof.Claims

/-! ## Frames -/

theorem kept_link (s : State) (busy : Bool) (link : Link) :
    Kept s { s with engine := { s.engine with rejectedBusy := busy, link := link } } :=
  kept_engine_of_phase s _ rfl

theorem kept_receive (s : State) (code : Byte) (hoff : onDuty s.engine.phase = false) : Kept s (s.receive code) :=
  kept_engine s _ hoff fun _ => by simp

theorem offDuty_of_judges (s : State) (code : Byte) (h : s.judges code = true) : onDuty s.engine.phase = false := by
  obtain ⟨-, hp | ⟨hp | ⟨r, b, hp⟩, -⟩⟩ := (s.judges_iff code).mp h <;> rw [hp] <;> rfl

/-- A frame keeps the invariants when its command does, run by an engine that is receiving. -/
theorem kept_frameEnd (s : State) (code : Byte) (need : Nat) (args : List Byte) (run : State → State)
    (hrun : ∀ t : State, t.engine.phase = .receiving code → Kept t (run t)) :
    Kept s (s.frameEnd code need args run) := by
  by_cases hj : s.judges code = true
  · have hreceive := kept_receive s code (offDuty_of_judges s code hj)
    rw [s.frameEnd_of_judges code need args run hj, State.judgeFrame]
    split
    · exact hreceive.trans (kept_finish _ _ _ rfl)
    · exact hreceive.trans (hrun _ rfl)
  · rcases s.frameEnd_of_not_judges code need args run (Bool.not_eq_true _ ▸ hj) with h | h | h <;> rw [h]
    · exact Kept.refl s
    · exact kept_link s _ _
    · exact kept_link s _ _

theorem kept_codeByte (s : State) (code : Byte) : Kept s (s.codeByte code) := by
  unfold State.codeByte State.codeByteInReset
  split
  · split <;> exact kept_link s _ _
  · split
    · exact kept_link s _ _
    · split
      case h_1 => exact Kept.refl s
      case h_2 => exact kept_link s _ _
      case h_3 hp => exact kept_receive s code (by rw [hp]; rfl)
      case h_4 hp => exact kept_receive s code (by rw [hp]; rfl)

theorem kept_statusFrame (s : State) : Kept s s.statusFrame := by
  unfold State.statusFrame
  split <;> exact kept_link s _ _

/-! ## Commands, run by an engine that is receiving -/

section
variable (s : State) (code : Byte) (hs : s.engine.phase = .receiving code) (args : List Byte)
include hs

theorem offDuty_of_receiving : onDuty s.engine.phase = false := by rw [hs]; rfl

theorem kept_finish_received (r : ResultCode) (layout : List Byte) : Kept s (s.finish r layout) :=
  kept_finish s r layout (offDuty_of_receiving s code hs)

/-- A command that first makes a change which leaves the engine, and then ends. -/
theorem kept_finish_after (t : State) (r : ResultCode) (layout : List Byte) (h : Kept s t) (ht : t.engine = s.engine) :
    Kept s (t.finish r layout) :=
  h.trans (kept_finish t r layout (by rw [ht]; exact offDuty_of_receiving s code hs))

theorem kept_runLogHead : Kept s s.runLogHead := by
  unfold State.runLogHead
  split <;> exact kept_finish_received s code hs _ _

theorem kept_runLogPop : Kept s s.runLogPop := by
  unfold State.runLogPop
  split
  · exact kept_finish_after s code hs _ _ _ { log := FaultLog.pop_ok _ } rfl
  · exact kept_finish_received s code hs _ _

theorem kept_runLogClear : Kept s s.runLogClear :=
  kept_finish_after s code hs _ _ _ { log := fun _ => FaultLog.clear_ok _ } rfl

theorem kept_runReadWord : Kept s (s.runReadWord args) := by
  unfold State.runReadWord
  split <;> exact kept_finish_received s code hs _ _

theorem kept_runWriteMask (value : List Byte) : Kept s (s.runWriteMask value) := by
  unfold State.runWriteMask
  split
  · exact kept_finish_after s code hs _ _ _ { log := FaultLog.setMask_ok _ _ } rfl
  · exact kept_finish_received s code hs _ _

omit hs in
/-- A timing record that a word gives has an extend limit (TABLE 32, R175). -/
theorem timingOf_extendLimit (v : List Byte) (r : Timing) (h : timingOf v = some r) : r.extendLimit ≠ 0 := by
  unfold timingOf at h
  split at h
  case isTrue hc =>
    cases h
    intro h0
    have h0 : v.getD 3 0 = 0 := h0
    have : arg v 3 = 0 := by rw [arg, h0]; rfl
    omega
  case isFalse => cases h

theorem kept_runWriteTiming (t : Target) (value : List Byte) : Kept s (s.runWriteTiming t value) := by
  unfold State.runWriteTiming
  split
  case h_1 r hr =>
    refine kept_finish_after s code hs _ _ _ (kept_port s _ fun h => ?_) rfl
    obtain ⟨hlength, hforward, hcurrent, hdisc, hlimit, hpr⟩ := h
    refine ⟨hlength, hforward, hcurrent, hdisc, fun t' => ?_, hpr⟩
    rw [peek_poke]
    split
    · exact timingOf_extendLimit value r hr
    · exact hlimit t'
  case h_2 => exact kept_finish_received s code hs _ _

theorem kept_runWriteWord : Kept s (s.runWriteWord args) := by
  unfold State.runWriteWord
  split
  · exact kept_runWriteMask s code hs _
  · split
    · exact kept_runWriteTiming s code hs _ _
    · exact kept_finish_received s code hs _ _

theorem kept_runGetContext : Kept s (s.runGetContext args) := by
  unfold State.runGetContext
  split <;> exact kept_finish_received s code hs _ _

omit hs in
/-- A voided install whose command is not waiting leaves the engine. -/
theorem kept_setContext_invalidate (o : Originator) (c : Context) (cov : Coverage) :
    Kept s ((s.setContext o c).invalidate cov) :=
  (kept_setContexts s _).trans (kept_invalidate _ cov)

omit hs code args in
/-- An engine that is receiving, or holds a result, is changed by no wake. -/
theorem wakeAll_engine_of_offDuty (s : State) (k : Key) (o : FetchOutcome) (ws : List Waiter)
    (hoff : onDuty s.engine.phase = false) : (s.wakeAll k o ws).engine = s.engine := by
  unfold State.wakeAll
  induction ws generalizing s with
  | nil => rfl
  | cons w ws ih =>
    have hw : (s.wake k o w).engine = s.engine := by
      cases w with
      | request i => exact wakeRequest_engine s i o
      | command =>
        simp only [State.wake, State.wakeCommand]
        split
        case h_1 hp => rw [hp] at hoff; cases hoff
        case h_2 hp => rw [hp] at hoff; cases hoff
        case h_3 => rfl
    exact (ih _ (by rw [hw]; exact hoff)).trans hw

omit hs code args in
theorem voidInstall_engine (s : State) (i : FetchIx) (hoff : onDuty s.engine.phase = false) :
    (s.voidInstall i).engine = s.engine := by
  unfold State.voidInstall State.reissueOrFail
  split
  · split
    · rfl
    · rw [State.endFetch_eq]
      exact wakeAll_engine_of_offDuty { s with fetch := _ } _ _ _ hoff
  · rfl

omit hs code args in
theorem voidInstalls_engine (s : State) (l : List FetchIx) (hoff : onDuty s.engine.phase = false) :
    (l.foldl State.voidInstall s).engine = s.engine := by
  induction l generalizing s with
  | nil => rfl
  | cons i l ih =>
    have hi := voidInstall_engine s i hoff
    exact (ih _ (by rw [hi]; exact hoff)).trans hi

omit hs code args in
/-- An invalidation that comes while no command waits on a fetch leaves the engine. -/
theorem invalidate_engine (s : State) (cov : Coverage) (hoff : onDuty s.engine.phase = false) :
    (s.invalidate cov).engine = s.engine := by
  rw [State.invalidate_eq]
  exact voidInstalls_engine (s.invalidateStart cov) _ hoff

theorem kept_runInvalidation (cov : Coverage) : Kept s (s.runInvalidation cov) :=
  kept_finish_after s code hs _ _ _ (kept_invalidate s cov) (invalidate_engine s cov (offDuty_of_receiving s code hs))

theorem kept_runInvalidate : Kept s (s.runInvalidate args) := by
  unfold State.runInvalidate
  split
  · exact kept_runInvalidation s code hs _
  · exact kept_finish_received s code hs _ _

theorem kept_runInvalidateOriginator : Kept s (s.runInvalidateOriginator args) := by
  unfold State.runInvalidateOriginator
  split
  · exact kept_runInvalidation s code hs _
  · exact kept_finish_received s code hs _ _

theorem kept_runSetContext : Kept s (s.runSetContext args) := by
  unfold State.runSetContext
  split
  case h_1 a _ =>
    split
    · refine kept_finish_after s code hs _ _ _ (kept_setContext_invalidate s _ _ _) ?_
      exact invalidate_engine (s.setContext a.org ((s.context a.org).written a)) _ (offDuty_of_receiving s code hs)
    · exact kept_finish_received s code hs _ _
  case h_2 => exact kept_finish_received s code hs _ _

theorem kept_runOriginatorOn : Kept s (s.runOriginatorOn args) := by
  unfold State.runOriginatorOn
  split
  · split
    · exact kept_finish_after s code hs _ _ _ (kept_setContexts s _) rfl
    · exact kept_finish_received s code hs _ _
  · exact kept_finish_received s code hs _ _

theorem kept_runResume : Kept s (s.runResume args) := by
  unfold State.runResume
  split
  · split
    · exact kept_finish_after s code hs _ _ _ (kept_setContexts s _) rfl
    · exact kept_finish_received s code hs _ _
  · exact kept_finish_received s code hs _ _

theorem kept_runReleaseQuarantine : Kept s (s.runReleaseQuarantine args) := by
  unfold State.runReleaseQuarantine
  split
  · split
    · exact kept_finish_after s code hs _ _ _ (kept_setContexts s _) rfl
    · exact kept_finish_received s code hs _ _
  · exact kept_finish_received s code hs _ _

/-- A command that drains: held EXECUTING, or ended at once (R29). -/
theorem kept_execute_checkDrained (c : LongCommand) (hc : c.hasDrain = true) : Kept s ((s.execute c).checkDrained) := by
  have hexecute : Kept s (s.execute c) := kept_engine s _ (offDuty_of_receiving s code hs) fun k hk => by
    cases hk
    cases hc
  refine hexecute.trans ?_
  simp only [State.checkDrained, State.execute_engine]
  split
  · refine kept_finish _ _ _ ?_
    cases c <;> simp_all [onDuty, LongCommand.hasDrain]
  · exact Kept.refl _

theorem kept_runOriginatorOff : Kept s (s.runOriginatorOff args) := by
  unfold State.runOriginatorOff
  split
  case h_1 o _ =>
    split
    · exact (kept_setContexts s _).trans (kept_execute_checkDrained (s.setOriginator o .off) code hs _ rfl)
    · exact kept_finish_received s code hs _ _
  case h_2 => exact kept_finish_received s code hs _ _

theorem kept_runSuspend : Kept s (s.runSuspend args) := by
  unfold State.runSuspend
  split
  case h_1 o _ =>
    split
    · exact (kept_setContexts s _).trans (kept_execute_checkDrained (s.setOriginator o .suspended) code hs _ rfl)
    · exact kept_finish_received s code hs _ _
  case h_2 => exact kept_finish_received s code hs _ _

theorem kept_runCacheRead : Kept s (s.runCacheRead args) := by
  unfold State.runCacheRead
  split <;> exact kept_finish_received s code hs _ _

omit hs code in
theorem kept_lookedUp (k : Key) : Kept s { s with cache := s.cache.lookedUp k } := by
  unfold Cache.lookedUp
  split
  case h_1 e he => exact kept_touch s e (find_notFree _ _ _ he)
  case h_2 => exact Kept.refl s

/-- A pin set in an entry: the entry of the key was pinned already, or there is room (R66, R78). -/
theorem kept_pin (k : Key) (e : EntryIx) (he : s.cache.find k = some e)
    (hroom : ¬ (s.cache.pinnedOf k = none ∧ maxPins ≤ s.cache.pinCount)) :
    Kept s { s with cache := (s.cache.touch e).pin e } where
  cache h := Cache.pin_ok _ _ (s.cache.touch_ok e h (find_notFree _ _ _ he))
  keys := keysOk_of_narrows s _ (narrows_poke (s.cache.touch e) _ e _ rfl (narrows_pin _)) rfl
  pins hkeys _ hp := by
    refine pinsOk_of_nil _ ?_ (fun _ => by simp [hs]) (commandKeys_nil_of_offDuty s (offDuty_of_receiving s code hs) hp)
    have hentry : ∀ i, ((s.cache.touch e).pin e).entry i = if e = i then (s.cache.entry e).pin else s.cache.entry i :=
      pin_entry (s.cache.touch e) e
    rcases hk : s.cache.pinnedOf k with _ | j
    · have hless : s.cache.pinCount < 12 := Nat.lt_of_not_le fun hfull => hroom ⟨hk, hfull⟩
      exact (pinCount_le_succ s.cache _ e fun i hi => by rw [hentry, if_neg (Ne.symm hi)]).trans hless
    · have hj := ((s.cache.pinnedOf_eq_some k j).mp hk).1
      have hek := ((Entry.answers_iff k _).mp ((s.cache.find_eq_some k e).mp he).1).1
      obtain rfl : j = e := hkeys.1 j e k hj.2 hek
      have hsame : SamePins s.cache ((s.cache.touch j).pin j) := by
        refine samePins_of_one s.cache _ j _ hentry ?_ fun _ => ?_
        · rw [hj.1]
          cases hx : s.cache.entry j <;> simp_all [Entry.pin, Entry.pinned]
        · cases s.cache.entry j <;> rfl
      show ((s.cache.touch j).pin j).pinCount ≤ 12
      rw [hsame.pinCount]
      exact hp.1

/-- PIN and PROBE that miss: the command waits on the fetch of its key (R79, R87). -/
theorem kept_commandMiss (c : LongCommand) (k : Key) (hc : (EnginePhase.executing c).fetchKey? = some k)
    (hmiss : s.cache.find k = none)
    (hroom : ∀ k', c = .pin k' → ¬ (s.cache.pinnedOf k' = none ∧ maxPins ≤ s.cache.pinCount)) :
    Kept s { s.execute c with fetch := s.fetch.placeMiss k .command } where
  sequence h := sequenceOk_of_none _ (sequence_none_of_offDuty s (offDuty_of_receiving s code hs) h)
  keys := keysOk_placeMiss s _ k .command hmiss rfl rfl
  pins _ _ hp := by
    have hnil := commandKeys_nil_of_offDuty s (offDuty_of_receiving s code hs) hp
    have hone := commandKeys_placeMiss s.fetch k .command
    rw [hnil] at hone
    refine ⟨hp.1, fun k' hk' => ?_, .inr ⟨k, List.perm_singleton.mp hone, hc⟩⟩
    have hck : c = .pin k' := by simpa using hk'
    by_contra hnot
    refine hroom k' hck ⟨?_, ?_⟩
    · by_contra hpinned
      exact hnot (.inl hpinned)
    · exact Nat.le_of_not_lt fun hless => hnot (.inr hless)
  lists hseq := fetchListsOk_placeMiss s _ k .command rfl
    (sequence_none_of_offDuty s (offDuty_of_receiving s code hs) hseq) rfl

theorem kept_runPin : Kept s (s.runPin args) := by
  unfold State.runPin
  split
  case h_1 => exact kept_finish_received s code hs _ _
  case h_2 k _ =>
    split
    case isTrue => exact kept_finish_received s code hs _ _
    case isFalse =>
      split
      case isTrue => exact kept_finish_after s code hs _ _ _ (kept_lookedUp s k) rfl
      case isFalse hroom =>
        split
        case h_1 e he => exact kept_finish_after s code hs _ _ _ (kept_pin s code hs k e he hroom) rfl
        case h_2 hmiss =>
          refine kept_commandMiss s code hs (.pin k) k rfl hmiss fun k' hk' => ?_
          cases hk'
          exact hroom

theorem kept_runUnpin : Kept s (s.runUnpin args) := by
  unfold State.runUnpin
  split
  case h_1 => exact kept_finish_received s code hs _ _
  case h_2 k _ =>
    split
    case h_1 e _ =>
      have hless : (s.cache.unpin e).pinCount ≤ s.cache.pinCount := by
        rw [pinCount_eq_countP, pinCount_eq_countP]
        refine List.countP_mono_left fun i _ hi => ?_
        rw [unpin_entry] at hi
        split at hi
        case isTrue => cases hx : s.cache.entry e <;> simp [hx, Entry.unpin, Entry.pinned] at hi
        case isFalse => exact hi
      have hunpinned : Kept s { s with cache := s.cache.unpin e } := {
        cache := Cache.unpin_ok _ _
        keys := keysOk_of_narrows s _ (narrows_poke s.cache _ e _ rfl (narrows_unpin _)) rfl
        pins := fun _ _ hp => pinsOk_of_nil _ (hless.trans hp.1) (fun _ => by simp [hs])
          (commandKeys_nil_of_offDuty s (offDuty_of_receiving s code hs) hp) }
      exact kept_finish_after s code hs _ _ _ hunpinned rfl
    case h_2 => exact kept_finish_received s code hs _ _

theorem kept_runProbe : Kept s (s.runProbe args) := by
  unfold State.runProbe
  split
  case h_1 => exact kept_finish_received s code hs _ _
  case h_2 a _ =>
    split
    · exact kept_finish_received s code hs _ _
    · split
      · exact kept_finish_received s code hs _ _
      · unfold State.probeLookup
        split
        case h_1 e he =>
          have htouch := kept_touch s e (find_notFree _ _ _ he)
          split <;> exact kept_finish_after s code hs _ _ _ htouch rfl
        case h_2 hmiss => exact kept_commandMiss s code hs (.probe a) a.key rfl hmiss fun k' hk' => by cases hk'

/-- ENGAGE begins its sequence and executes in one step (R158). -/
theorem kept_runEngage : Kept s s.runEngage := by
  unfold State.runEngage
  split
  case isTrue =>
    refine Kept.trans ?_ (kept_checkEngaged _)
    exact {
      sequence := fun _ => ⟨fun _ => rfl, fun h => (by cases h)⟩
      pins := fun _ _ hp => pinsOk_of_nil _ hp.1 (fun _ => by simp)
        (commandKeys_nil_of_offDuty s (offDuty_of_receiving s code hs) hp)
      lists := fun hseq hl => ⟨fun _ => hl.1 (by
          rw [sequence_none_of_offDuty s (offDuty_of_receiving s code hs) hseq]; rfl), fun h => (by cases h)⟩ }
  case isFalse => exact kept_finish_received s code hs _ _

/-- SOFT_RESET closes the blocks and executes in one step (R161, R162). -/
theorem kept_runSoftReset : Kept s s.runSoftReset := by
  unfold State.runSoftReset
  have haccept : Kept s ({ s with sequence := .resetMemory, fetch := s.fetch.withdraw }.execute .softReset) := {
    sequence := fun _ => ⟨fun h => (by cases h), fun _ => rfl⟩
    pins := fun _ _ hp => pinsOk_of_nil _ hp.1 (fun _ => by simp)
      (commandKeys_nil_of_offDuty s (offDuty_of_receiving s code hs) hp)
    lists := fun _ _ => ⟨fun h => (by cases h), fun h => (by cases h)⟩ }
  simp only
  split
  case isTrue hcurrent => exact haccept.trans (kept_memoryRelease _ hcurrent fun _ => rfl)
  case isFalse => exact haccept

end

/-! ## The reset input -/

theorem kept_cutStrobe (s : State) : Kept s s.cutStrobe := by
  unfold State.cutStrobe
  split
  · split
    · refine { memory := fun h => ?_ }
      show Memory.Wf (if _ then _ else _)
      split
      · exact MemOp.writeBeat_wf _ _ _ h
      · exact h
    · exact Kept.refl s
  · exact Kept.refl s

/-- The values of a pin reset meet every condition (TABLE 45). -/
theorem intakeOk_reset (s : State) (h : s.intake = .reset) : s.IntakeOk := by
  have hslot : ∀ i, s.slot i = .free := fun i => by simp [State.slot, h, Intake.reset]
  have horder : ∀ o, s.order o = [] := fun o => by simp [State.order, h, Intake.reset]
  refine ⟨fun o => ?_, fun o => ?_, fun o i j hi => ?_, fun i hi => ?_⟩
  · simp [hslot, horder, Slot.heldBy]
  · simp [horder]
  · rw [hslot] at hi
    cases hi
  · rw [h] at hi
    cases hi

theorem portOk_reset : Port.reset.Ok := by
  refine ⟨by decide, fun o => Nat.zero_le _, fun h => absurd rfl h, by decide, fun t => ?_, fun pr hpr => by cases hpr⟩
  simp [Port.reset, Timing.boot]

theorem keysOk_reset (s : State) (hcache : s.cache = .reset) (hfetch : s.fetch = .reset) : s.KeysOk := by
  have hfree : ∀ i, (s.cache.entry i).key? = none := fun i => by simp [hcache, Cache.reset, Cache.entry, Entry.key?]
  have hidle : ∀ f, (s.fetch.slot f).key? = none := fun f => by
    simp [hfetch, FetchUnit.reset, FetchUnit.slot, FetchSlot.key?]
  refine ⟨fun i j k hi => ?_, fun f g k hf => ?_, fun f k hf => ?_, fun a ha => ?_⟩
  · rw [hfree] at hi
    cases hi
  · rw [hidle] at hf
    cases hf
  · rw [hidle] at hf
    cases hf
  · rw [hfetch] at ha
    cases ha

theorem kept_pinReset (s : State) : Kept s s.pinReset where
  port _ := portOk_reset
  log _ := FaultLog.reset_ok
  intake _ := intakeOk_reset _ rfl
  cache _ := Cache.reset_ok
  sequence _ := sequenceOk_of_none _ rfl
  keys _ := keysOk_reset _ rfl rfl
  pins _ _ _ := pinsOk_of_nil _ (show Cache.reset.pinCount ≤ 12 by decide) (fun _ => by simp [State.pinReset, Engine.reset])
    (show FetchUnit.reset.commandKeys = [] by decide)
  lists _ _ := ⟨fun _ => FetchUnit.reset_listed, fun _ => rfl⟩

/-! ## Every step -/

/-- What a row answers, when it keeps the invariants of the state in which its event is taken (R71; log 10). -/
theorem kept_ofSettled (s t u : State) (hu : Kept s.settle u)
    (h : (.next u : Host.Outcome State Fault Refusal) = .next t) : Kept s t := by
  cases h
  exact (kept_settle s).trans hu

/-- The end of a command frame. -/
theorem kept_frame (s t : State) (code : Byte) (need : Nat) (args : List Byte) (run : State → State)
    (hrun : ∀ t : State, t.engine.phase = .receiving code → Kept t (run t))
    (h : (.next (s.settle.frameEnd code need args run) : Host.Outcome State Fault Refusal) = .next t) : Kept s t :=
  kept_ofSettled s t _ (kept_frameEnd s.settle code need args run hrun) h

theorem kept_unknownFrame (s : State) (code : Byte) : Kept s (s.unknownFrame code) := by
  unfold State.unknownFrame
  split
  · exact kept_frameEnd s code _ _ _ fun t ht => kept_finish_received t code ht _ _
  · exact Kept.refl s

/-- A command keeps the invariants, whatever it is. -/
theorem kept_exec (c : Instr) (s t : State) (h : exec c s = .next t) : Kept s t := by
  cases c with
  | admission r => exact kept_ofSettled s t _ (kept_presentOn _ r) h
  | responsePresented => exact kept_ofSettled s t _ (kept_presentResponse _) h
  | responseDeparture => exact kept_ofSettled s t _ (kept_depart _) h
  | resolutionTurn => exact kept_ofSettled s t _ (kept_giveTurn _) h
  | forwardReadEntry =>
    refine kept_ofSettled s t _ ?_ h
    split
    case h_1 o i hg => exact kept_enterForward _ false o i hg
    case h_2 => exact Kept.refl _
  | forwardWriteEntry =>
    refine kept_ofSettled s t _ ?_ h
    split
    case h_1 o i hg => exact kept_enterForward _ true o i hg
    case h_2 => exact Kept.refl _
  | tableReadEntry =>
    refine kept_ofSettled s t _ ?_ h
    split
    case h_1 i hg => exact kept_enterTableRead _ i hg
    case h_2 => exact Kept.refl _
  | statusWriteEntry =>
    refine kept_ofSettled s t _ ?_ h
    split
    case h_1 e hg => exact kept_enterStatusWrite _ e (grant_open _ _ hg).2
    case h_2 => exact Kept.refl _
  | recoveryExpiry => exact kept_ofSettled s t _ (kept_expireRecovery _) h
  | forwardReadComplete x => exact kept_ofSettled s t _ (kept_completeBeat _ _ x) h
  | writeOperationComplete x => exact kept_ofSettled s t _ (kept_completeBeat _ _ x) h
  | tableReadComplete x => exact kept_ofSettled s t _ (kept_completeBeat _ _ x) h
  | beatComplete x => exact kept_ofSettled s t _ (kept_completeBeat _ _ x) h
  | waitingInstallMade =>
    cases h
    split
    · exact Kept.refl s
    · exact kept_makeWaitingInstall s
  | extendLimitExpiry => exact kept_ofSettled s t _ (kept_expireExtend _) h
  | resetAsserted => cases h; exact (kept_cutStrobe s).trans (kept_pinReset _)
  | resetReleased => cases h; exact {}
  | status => exact kept_ofSettled s t _ (kept_statusFrame _) h
  | codeByteWhole code => exact kept_ofSettled s t _ (kept_codeByte _ code) h
  | unknownCommand code => exact kept_ofSettled s t _ (kept_unknownFrame _ code) h
  | readWord args => exact kept_frame s t _ _ _ _ (fun v hv => kept_runReadWord v _ hv args) h
  | writeWord args => exact kept_frame s t _ _ _ _ (fun v hv => kept_runWriteWord v _ hv args) h
  | writeAttentionMask value => exact kept_frame s t _ _ _ _ (fun v hv => kept_runWriteMask v _ hv value) h
  | writeTimingRecord target value => exact kept_frame s t _ _ _ _ (fun v hv => kept_runWriteTiming v _ hv target value) h
  | getContext args => exact kept_frame s t _ _ _ _ (fun v hv => kept_runGetContext v _ hv args) h
  | setContext args => exact kept_frame s t _ _ _ _ (fun v hv => kept_runSetContext v _ hv args) h
  | originatorOn args => exact kept_frame s t _ _ _ _ (fun v hv => kept_runOriginatorOn v _ hv args) h
  | originatorOff args => exact kept_frame s t _ _ _ _ (fun v hv => kept_runOriginatorOff v _ hv args) h
  | suspend args => exact kept_frame s t _ _ _ _ (fun v hv => kept_runSuspend v _ hv args) h
  | resume args => exact kept_frame s t _ _ _ _ (fun v hv => kept_runResume v _ hv args) h
  | releaseQuarantine args => exact kept_frame s t _ _ _ _ (fun v hv => kept_runReleaseQuarantine v _ hv args) h
  | invalidate args => exact kept_frame s t _ _ _ _ (fun v hv => kept_runInvalidate v _ hv args) h
  | invalidateOriginator args => exact kept_frame s t _ _ _ _ (fun v hv => kept_runInvalidateOriginator v _ hv args) h
  | invalidateStamp args => exact kept_frame s t _ _ _ _ (fun v hv => kept_runInvalidation v _ hv _) h
  | invalidateAll args => exact kept_frame s t _ _ _ _ (fun v hv => kept_runInvalidation v _ hv _) h
  | pin args => exact kept_frame s t _ _ _ _ (fun v hv => kept_runPin v _ hv args) h
  | unpin args => exact kept_frame s t _ _ _ _ (fun v hv => kept_runUnpin v _ hv args) h
  | cacheRead args => exact kept_frame s t _ _ _ _ (fun v hv => kept_runCacheRead v _ hv args) h
  | probe args => exact kept_frame s t _ _ _ _ (fun v hv => kept_runProbe v _ hv args) h
  | logHead args => exact kept_frame s t _ _ _ _ (fun v hv => kept_runLogHead v _ hv) h
  | logPop args => exact kept_frame s t _ _ _ _ (fun v hv => kept_runLogPop v _ hv) h
  | logClear args => exact kept_frame s t _ _ _ _ (fun v hv => kept_runLogClear v _ hv) h
  | engage args => exact kept_frame s t _ _ _ _ (fun v hv => kept_runEngage v _ hv) h
  | softReset args => exact kept_frame s t _ _ _ _ (fun v hv => kept_runSoftReset v _ hv) h

/-- A step keeps the invariants: of a command with the queue's rest, or of one MCLK period. -/
theorem kept_step (s t : State) (h : step s = .next t) : Kept s t := by
  unfold step at h
  split at h
  case h_1 c rest _ =>
    have htaken : Kept s { s with pending := rest } := {}
    exact htaken.trans (kept_exec c _ t h)
  case h_2 => exact kept_ofSettled s t _ (kept_period _) h

/-- Settles O5: a step writes memory in write beats alone. -/
theorem stepKeepsMemoryCanonical : Obligations.StepKeepsMemoryCanonical := fun s t hs h => (kept_step s t h).memory hs

/-- Settles O6: an operation enters by a grant alone, which says that there is room. -/
theorem stepKeepsMemoryPort : Obligations.StepKeepsMemoryPort := fun s t hs h => (kept_step s t h).port hs

/-- Settles O7: the log changes by offers and by the three log commands. -/
theorem stepKeepsLogNumbering : Obligations.StepKeepsLogNumbering := fun s t hs h => (kept_step s t h).log hs

/-- Settles O8: a slot enters resolution by a turn alone, which its originator's other slots withhold. -/
theorem stepKeepsIntake : Obligations.StepKeepsIntake := fun s t hs h => (kept_step s t h).intake hs

/-- Settles O9, from the rules of Laws/Cache.lean. -/
theorem stepKeepsCacheLists : Obligations.StepKeepsCacheLists := fun s t hs h => (kept_step s t h).cache hs

/-- Settles O10: a key comes into the fetch unit by a miss alone, and into an entry by the install that ends its fetch. -/
theorem stepKeepsKeysUnique : Obligations.StepKeepsKeysUnique := fun s t hs h => (kept_step s t h).keys hs

/-- Settles O11: a sequence begins with its command, and while it runs no frame is judged and no wake ends it. -/
theorem stepKeepsSequenceCommand : Obligations.StepKeepsSequenceCommand := fun s t hs h => (kept_step s t h).sequence hs

/-- Settles O12: an install pins for the PIN that waits on its fetch alone, whose place was kept. -/
theorem stepKeepsPins : Obligations.StepKeepsPins := fun s t hkeys hseq hs h => (kept_step s t h).pins hkeys hseq hs

/-- Settles O60, from the rules of Laws/FetchLists.lean. -/
theorem stepKeepsFetchLists : Obligations.StepKeepsFetchLists := fun s t hseq hs h => (kept_step s t h).lists hseq hs

end Sys2Proof.Proofs
end

section
/-! PROOFS. The step on a command, and the state after reset. -/

namespace Sys2Proof.Proofs

open Sys2Proof.Machine Sys2Proof.Claims

/-- Settles O1: `step` looks at the front of the queue. -/
theorem stepRunsFrontCommand : Obligations.StepRunsFrontCommand := fun _ _ _ => rfl

/-- Settles O3: every block at its reset value (TABLE 45). -/
theorem resetLeavesBootState : Obligations.ResetLeavesBootState := by
  refine ⟨rfl, rfl, fun o => ?_, fun i => ?_, fun o => ?_, rfl, rfl, rfl, fun e => ?_, rfl, rfl, fun f => ?_, rfl, rfl, rfl,
    fun t => ?_, rfl, rfl, rfl, rfl, fun t => ?_, rfl, rfl, rfl⟩
  · exact peek_replicate _ _
  · exact peek_replicate _ _
  · exact peek_replicate _ _
  · exact peek_replicate _ _
  · exact peek_replicate _ _
  · exact peek_replicate _ _
  · exact peek_replicate _ _

/-- Settles O4: with every block empty each condition holds. -/
theorem resetMeetsEveryCondition : Obligations.ResetMeetsEveryCondition :=
  ⟨State.reset_memoryWf, portOk_reset, FaultLog.reset_ok, intakeOk_reset _ rfl, Cache.reset_ok, keysOk_reset _ rfl rfl,
    sequenceOk_of_none _ rfl, pinsOk_of_nil _ (by decide) (fun _ => by simp [State.reset, Engine.reset]) (by decide),
    fun _ => FetchUnit.reset_listed, fun _ => rfl⟩

end Sys2Proof.Proofs
end

section
/-! PROOFS. Frames on the management link: where a frame is judged, and the commands on the log, on words, and on single
records of contexts and cache. -/

namespace Sys2Proof.Proofs

open Sys2Proof.Machine Sys2Proof.Claims

/-! ## A frame that is judged (R168, R170) -/

theorem judges_of_receives (s : State) (code : Byte) (h : Receives s code) : s.judges code = true :=
  (s.judges_iff code).mpr ⟨h.1, h.2.2⟩

/-- A frame that is long enough runs its command on the state in which the engine has received it. -/
theorem frame_runs (s : State) (code : Byte) (need : Nat) (args : List Byte) (run : State → State) (h : Receives s code)
    (hlong : need ≤ args.length) :
    (.next (s.settle.frameEnd code need args run) : Host.Outcome State Fault Refusal) = .next (run (s.receive code)) := by
  rw [s.settle_of_settled h.2.1, s.frameEnd_of_run code need args run (judges_of_receives s code h) hlong]

/-- A command that ends leaves the engine alone changed (R170, R172). -/
theorem finish_receive (s : State) (code : Byte) (r : ResultCode) (layout : List Byte) :
    (s.receive code).finish r layout = { s with engine := ended s r layout } := rfl

/-! ## Log commands (R145 to R147, R184) -/

theorem receive_logHead (s : State) (code : Byte) :
    (s.receive code).runLogHead = match s.log.records with
      | r :: _ => { s with engine := ended s .ok r.layout }
      | [] => { s with engine := ended s .notFound [] } := by
  unfold State.runLogHead
  rw [State.receive_log]
  cases s.log.records <;> rfl

theorem receive_logPop (s : State) (code : Byte) :
    (s.receive code).runLogPop = match s.log.records with
      | r :: later => { s with log := { s.log with records := later }, engine := ended s .ok r.layout }
      | [] => { s with engine := ended s .notFound [] } := by
  unfold State.runLogPop FaultLog.pop
  rw [State.receive_log]
  cases s.log.records <;> rfl

/-- The presence bits are six binary digits (TABLE 42). -/
theorem presence_digits (a b c d e f : Bool) :
    byteOfBool a ||| (byteOfBool b <<< 1) ||| (byteOfBool c <<< 2) ||| (byteOfBool d <<< 3) ||| (byteOfBool e <<< 4) |||
        (byteOfBool f <<< 5) =
      BitVec.ofNat 8 ((if a = true then 1 else 0) + (if b = true then 2 else 0) + (if c = true then 4 else 0) +
        (if d = true then 8 else 0) + (if e = true then 16 else 0) + (if f = true then 32 else 0)) := by
  revert a b c d e f
  decide

theorem accessBytes_eq (x : Option (AccessKind × AccessSize × Addr)) :
    accessBytes x = match x with
      | none => [0, 0, 0, 0, 0]
      | some (k, z, a) =>
        [match k with
          | .read => 0
          | .write => 1
          | .fetch => 2,
         match z with
          | .one => 1
          | .two => 2
          | .four => 4,
         a.extractLsb' 0 8, a.extractLsb' 8 8, a.extractLsb' 16 8] := by
  rcases x with _ | ⟨k, z, a⟩
  · rfl
  · cases k <;> cases z <;> rfl

theorem placeBytes_eq (x : Option Place) :
    placeBytes x = match x with
      | none => [0, 0, 0, 0]
      | some p =>
        [BitVec.ofNat 8 p.target.val, p.addr.extractLsb' 0 8, p.addr.extractLsb' 8 8, p.addr.extractLsb' 16 8] := by
  cases x <;> rfl

/-- Settles O44: each command by whether the log is empty, and the layout group by group. -/
theorem logCommandsReadAndEmpty : Obligations.LogCommandsReadAndEmpty := by
  refine ⟨fun s args => ⟨fun h => ?_, fun h => ?_, fun h => ?_⟩, fun r => ?_⟩
  · have hexec : exec (.logHead args) s = .next (s.receive 0x30).runLogHead := frame_runs s _ _ _ _ h (Nat.zero_le _)
    rw [hexec, receive_logHead]
    exact ⟨fun hempty => by rw [hempty], fun r later hr => by rw [hr]⟩
  · have hexec : exec (.logPop args) s = .next (s.receive 0x31).runLogPop := frame_runs s _ _ _ _ h (Nat.zero_le _)
    rw [hexec, receive_logPop]
    exact ⟨fun hempty => by rw [hempty], fun r later hr => by rw [hr]⟩
  · exact frame_runs s 0x32 0 args State.runLogClear h (Nat.zero_le _)
  · simp only [FaultRecord.layout, FaultInfo.presence, presence_digits, accessBytes_eq, placeBytes_eq]
    cases r.info.org <;> cases r.info.window <;> rfl

/-! ## Frames that reach no command -/

theorem codeUnknown_of_notMem (code : Byte)
    (h : code ∉ ([0x01, 0x02, 0x03, 0x08, 0x09, 0x10, 0x11, 0x12, 0x13, 0x14, 0x20, 0x21, 0x22, 0x23, 0x24, 0x25, 0x26,
      0x28, 0x30, 0x31, 0x32, 0x3A, 0x3F] : List Byte)) : codeUnknown code = true := by
  rw [List.mem_cons, not_or] at h
  obtain ⟨hstatus, hcommands⟩ := h
  rw [codeUnknown, Bool.and_eq_true, decide_eq_true_eq, Bool.not_eq_true']
  refine ⟨hstatus, ?_⟩
  rw [Bool.eq_false_iff, ne_eq, List.contains_iff_mem]
  exact hcommands

theorem exec_unknownCommand (s : State) (code : Byte) (h : codeUnknown code = true) :
    exec (.unknownCommand code) s = .next (s.settle.frameEnd code 0 [] fun s => s.finish .unknownCommand []) := by
  show Host.Outcome.next (s.settle.unknownFrame code) = _
  rw [State.unknownFrame, if_pos h]

/-- A row that ends a frame is the end of that frame. -/
theorem exec_frameEnd (s : State) (c : Instr) (code : Byte) (need : Nat) (args : List Byte)
    (h : frameOf c = some (code, need, args)) : ∃ run, exec c s = .next (s.settle.frameEnd code need args run) := by
  cases c <;> cases h <;> exact ⟨_, rfl⟩

theorem exec_endsFrame (s : State) (c : Instr) (code : Byte) (h : EndsFrame c code) :
    ∃ need args run, exec c s = .next (s.settle.frameEnd code need args run) := by
  rcases h with ⟨need, args, hframe⟩ | ⟨rfl, hcode⟩
  · obtain ⟨run, hrun⟩ := exec_frameEnd s c code need args hframe
    exact ⟨need, args, run, hrun⟩
  · exact ⟨0, [], _, exec_unknownCommand s code (codeUnknown_of_notMem code hcode)⟩

/-- A frame that is ignored, and that the engine is not receiving, ends without effect (R171, R174). -/
theorem frameEnd_of_ignored (s : State) (code : Byte) (need : Nat) (args : List Byte) (run : State → State)
    (hr : s.resetActive = false) (hphase : ∀ code', s.engine.phase ≠ .receiving code') (hlink : s.engine.link = .ignored code) :
    s.frameEnd code need args run = s.endIgnored := by
  rcases hp : s.engine.phase with _ | c | l | ⟨r, b⟩
  case receiving => exact absurd hp (hphase c)
  all_goals simp [State.frameEnd, hr, hp, hlink]

/-- Settles O47: the branches of the end of a frame other than the judgement of a whole command. -/
theorem frameThatReachesNoCommand : Obligations.FrameThatReachesNoCommand := by
  refine ⟨fun s code h hcode => ?_, fun s c code need args hframe h hshort => ?_, fun s c code hends => ?_⟩
  · rw [exec_unknownCommand s code (codeUnknown_of_notMem code hcode)]
    exact frame_runs s code 0 [] _ h (Nat.zero_le _)
  · obtain ⟨run, hrun⟩ := exec_frameEnd s c code need args hframe
    rw [hrun, s.settle_of_settled h.2.1, s.frameEnd_of_short code need args run (judges_of_receives s code h) hshort,
      finish_receive]
  · obtain ⟨need, args, run, hrun⟩ := exec_endsFrame s c code hends
    rw [hrun]
    refine ⟨fun hr => ?_, fun hr hs hphase hlink => ?_, fun l hr hs hphase hlink => ?_⟩
    · rw [s.settle_of_reset hr, s.frameEnd_of_reset code need args run hr]
      rfl
    · rw [s.settle_of_settled hs, frameEnd_of_ignored s code need args run hr hphase hlink]
      rfl
    · rw [s.settle_of_settled hs, s.frameEnd_of_executing code need args run l hr hphase, if_neg hlink]
      rfl

/-! ## Words (R175, R176) -/

theorem byte_toNat {n : Nat} (v : BitVec n) : byte v.toNat = v.setWidth 8 := by
  rw [byte, BitVec.ofNat_toNat]

/-- A timing record as its word (TABLE 52). -/
theorem timing_word (t : Timing) :
    t.word = [match t.width with
      | .w8 => 0
      | .w16 => 1, t.accessWait.setWidth 8, t.recovery.setWidth 8, t.extendLimit] := by
  cases hw : t.width <;> simp only [Timing.word, byte_toNat, hw]

theorem mode_word (m : Mode) : m.code = if m = .run then 1 else 0 := by cases m <;> rfl

/-- READ_WORD of a word number. -/
theorem receive_readWord (s : State) (code n : Byte) (more : List Byte) :
    (s.receive code).runReadWord (n :: more) = { s with
      engine := match s.word n.toNat with
        | some w => ended s .ok w
        | none => ended s .badArgument [] } := by
  show (match s.word n.toNat with
    | some w => (s.receive code).finish .ok w
    | none => (s.receive code).finish .badArgument []) = _
  cases s.word n.toNat <;> rfl

/-- Settles O48: the word with each number, and none above 7. -/
theorem readWordReturnsTheWord : Obligations.ReadWordReturnsTheWord := by
  intro s n more h
  have hexec : exec (.readWord (n :: more)) s = .next ((s.receive 0x02).runReadWord (n :: more)) :=
    frame_runs s _ _ (n :: more) (fun s => s.runReadWord (n :: more)) h (by simp)
  have heq : ∀ k : Nat, k < 256 → (n = BitVec.ofNat 8 k ↔ n.toNat = k) := fun k hk => by
    rw [← BitVec.toNat_inj, BitVec.toNat_ofNat, Nat.mod_eq_of_lt hk]
  rw [hexec, receive_readWord]
  simp only [State.word, timingWordTarget, timing_word, mode_word, identityWord, maskWord, FaultLog.word,
    show n = 0 ↔ n.toNat = 0 from heq 0 (by decide), show n = 1 ↔ n.toNat = 1 from heq 1 (by decide),
    show n = 2 ↔ n.toNat = 2 from heq 2 (by decide), show n = 3 ↔ n.toNat = 3 from heq 3 (by decide),
    show n = 4 ↔ n.toNat = 4 from heq 4 (by decide), show n = 5 ↔ n.toNat = 5 from heq 5 (by decide),
    show n = 6 ↔ n.toNat = 6 from heq 6 (by decide), show n = 7 ↔ n.toNat = 7 from heq 7 (by decide)]
  generalize n.toNat = k
  by_cases h0 : k = 0
  · subst h0; rfl
  by_cases h1 : k = 1
  · subst h1; rfl
  by_cases h2 : k = 2
  · subst h2; rfl
  by_cases h3 : k = 3
  · subst h3; rfl
  by_cases h4 : k = 4
  · subst h4; rfl
  by_cases h5 : k = 5
  · subst h5; rfl
  by_cases h6 : k = 6
  · subst h6; rfl
  by_cases h7 : k = 7
  · subst h7; rfl
  simp only [h0, h1, h2, h3, h4, h5, h6, h7, if_false, Option.map_none]

end Sys2Proof.Proofs
end

section
/-! PROOFS. Commands on words, contexts, cache entries and the part mode. -/

namespace Sys2Proof.Proofs

open Sys2Proof.Machine Sys2Proof.Claims

/-! ## WRITE_WORD (R150, R175) -/

theorem arg_cons_zero (b : Byte) (more : List Byte) : arg (b :: more) 0 = b.toNat := rfl

theorem maskOf_cons (v0 v1 v2 v3 : Byte) (more : List Byte) :
    maskOf (v0 :: v1 :: v2 :: v3 :: more) =
      if v1.toNat < 64 ∧ v2.toNat < 16 ∧ v3 = 0 then
        some (BitVec.ofNat 20 (v0.toNat + 256 * v1.toNat + 65536 * v2.toNat))
      else none := by
  have hrange : (v1.toNat / 64 = 0 ∧ v2.toNat / 16 = 0 ∧ v3.toNat = 0) ↔ v1.toNat < 64 ∧ v2.toNat < 16 ∧ v3 = 0 := by
    rw [← BitVec.toNat_inj (y := 0)]
    exact ⟨fun ⟨h1, h2, h3⟩ => ⟨by omega, by omega, h3⟩, fun ⟨h1, h2, h3⟩ => ⟨by omega, by omega, h3⟩⟩
  simp only [← hrange]
  rfl

theorem receive_writeMask (s : State) (code v0 v1 v2 v3 : Byte) (more : List Byte) :
    (s.receive code).runWriteMask (v0 :: v1 :: v2 :: v3 :: more) =
      if v1.toNat < 64 ∧ v2.toNat < 16 ∧ v3 = 0 then
        { s with
          log := { s.log with mask := BitVec.ofNat 20 (v0.toNat + 256 * v1.toNat + 65536 * v2.toNat) }
          engine := ended s .ok [] }
      else { s with engine := ended s .badArgument [] } := by
  rw [State.runWriteMask, maskOf_cons]
  by_cases h : v1.toNat < 64 ∧ v2.toNat < 16 ∧ v3 = 0
  · rw [if_pos h, if_pos h]
    rfl
  · rw [if_neg h, if_neg h]
    rfl

theorem timingOf_cons (v0 v1 v2 v3 : Byte) (more : List Byte) :
    timingOf (v0 :: v1 :: v2 :: v3 :: more) =
      if v0.toNat ≤ 1 ∧ v1.toNat ≤ 15 ∧ v2.toNat ≤ 3 ∧ v3 ≠ 0 then
        some { width := if v0 = 1 then .w16 else .w8, accessWait := v1.setWidth 4, recovery := v2.setWidth 2,
               extendLimit := v3 }
      else none := by
  have hlimit : 1 ≤ v3.toNat ↔ v3 ≠ 0 := by
    rw [ne_eq, ← BitVec.toNat_inj (y := 0)]
    exact Nat.one_le_iff_ne_zero
  have hwidth : v0.toNat = 1 ↔ v0 = 1 := BitVec.toNat_inj (y := (1 : Byte))
  simp only [← hlimit, ← hwidth, ← BitVec.ofNat_toNat]
  rfl

theorem receive_writeTiming (s : State) (code v0 v1 v2 v3 : Byte) (t : Target) (more : List Byte) :
    (s.receive code).runWriteTiming t (v0 :: v1 :: v2 :: v3 :: more) =
      if v0.toNat ≤ 1 ∧ v1.toNat ≤ 15 ∧ v2.toNat ≤ 3 ∧ v3 ≠ 0 then
        { s with
          port := { s.port with
            timing := poke s.port.timing t
              { width := if v0 = 1 then .w16 else .w8
                accessWait := v1.setWidth 4
                recovery := v2.setWidth 2
                extendLimit := v3 } }
          engine := ended s .ok [] }
      else { s with engine := ended s .badArgument [] } := by
  rw [State.runWriteTiming, timingOf_cons]
  by_cases h : v0.toNat ≤ 1 ∧ v1.toNat ≤ 15 ∧ v2.toNat ≤ 3 ∧ v3 ≠ 0
  · rw [if_pos h, if_pos h]
    rfl
  · rw [if_neg h, if_neg h]
    rfl

/-- WRITE_WORD of the word of a target writes its timing record. -/
theorem writeWord_timing (s : State) (t : Target) (value : List Byte) :
    s.runWriteWord (BitVec.ofNat 8 (3 + t.val) :: value) = s.runWriteTiming t value := by
  have harg : arg (BitVec.ofNat 8 (3 + t.val) :: value) 0 = 3 + t.val := by
    rw [arg_cons_zero, BitVec.toNat_ofNat]
    have := t.isLt
    omega
  have hne : ¬ 3 + t.val = 2 := by omega
  have htarget : timingWordTarget (3 + t.val) = some t := (by decide : ∀ t : Target, timingWordTarget (3 + t.val) = some t) t
  simp only [State.runWriteWord, harg, if_neg hne, htarget, List.drop_one, List.tail_cons]

/-- A read-only word and a number above 7. -/
theorem writeWord_other (s : State) (n : Byte) (value : List Byte) (h : n = 0 ∨ n = 1 ∨ 7 ≤ n.toNat) :
    s.runWriteWord (n :: value) = s.finish .badArgument [] := by
  have hn : n.toNat = 0 ∨ n.toNat = 1 ∨ 7 ≤ n.toNat := h.imp (congrArg BitVec.toNat) (Or.imp_left (congrArg BitVec.toNat))
  have htarget : timingWordTarget n.toNat = none := by
    unfold timingWordTarget
    rw [if_neg (by omega), if_neg (by omega), if_neg (by omega), if_neg (by omega)]
  rw [State.runWriteWord, arg_cons_zero, if_neg (by omega), htarget]

/-- Settles O49: the two rows with their word number fixed are the one row of WRITE_WORD. -/
theorem writableWordsAreWrittenWhole : Obligations.WritableWordsAreWrittenWhole := by
  refine ⟨fun s v0 v1 v2 v3 more h => ?_, fun s t v0 v1 v2 v3 more h => ⟨?_, ?_, fun n hn => ?_⟩⟩
  · rw [← receive_writeMask s 0x03]
    exact ⟨frame_runs s 0x03 5 _ (fun s => s.runWriteMask (v0 :: v1 :: v2 :: v3 :: more)) h (by simp),
      frame_runs s 0x03 5 _ (fun s => s.runWriteWord (2 :: v0 :: v1 :: v2 :: v3 :: more)) h (by simp)⟩
  · rw [← receive_writeTiming s 0x03]
    exact frame_runs s 0x03 5 _ (fun s => s.runWriteTiming t (v0 :: v1 :: v2 :: v3 :: more)) h (by simp)
  · rw [← receive_writeTiming s 0x03, ← writeWord_timing]
    exact frame_runs s 0x03 5 _ (fun s => s.runWriteWord (_ :: v0 :: v1 :: v2 :: v3 :: more)) h (by simp)
  · rw [← finish_receive s 0x03, ← writeWord_other (s.receive 0x03) n (v0 :: v1 :: v2 :: v3 :: more) hn]
    exact frame_runs s 0x03 5 _ (fun s => s.runWriteWord (n :: v0 :: v1 :: v2 :: v3 :: more)) h (by simp)

/-! ## GET_CONTEXT (R22, R177) -/

theorem byte_mod_256 {n : Nat} (v : BitVec n) : byte (v.toNat % 256) = v.extractLsb' 0 8 := by
  apply BitVec.eq_of_toNat_eq
  simp [byte]

theorem byte_div_256 {n : Nat} (v : BitVec n) : byte (v.toNat / 256) = v.extractLsb' 8 8 := by
  apply BitVec.eq_of_toNat_eq
  simp [byte, Nat.shiftRight_eq_div_pow]

/-- Settles O50: the seven bytes of TABLE 53. -/
theorem getContextReturnsSixFields : Obligations.GetContextReturnsSixFields := by
  intro s b more h
  have hexec : exec (.getContext (b :: more)) s = .next ((s.receive 0x08).runGetContext (b :: more)) :=
    frame_runs s 0x08 1 _ (fun s => s.runGetContext (b :: more)) h (by simp)
  rw [hexec, State.runGetContext]
  refine ⟨fun o ho => ?_, fun hrange => ?_⟩
  · rw [originatorArg_cons b more o ho]
    simp only [finish_receive]
    rw [show (s.receive 0x08).context o = s.context o from rfl, Context.layout, byte_mod_256, byte_div_256]
    cases (s.context o).state <;> rfl
  · rw [originatorArg_above b more hrange]
    rfl

/-! ## The states of an originator (R29 to R34, R178) -/

/-- A long command that drains: OK at once when no request is left, EXECUTING otherwise (R29). -/
theorem receive_drains (s : State) (code : Byte) (o : Originator) (x : OriginatorState) (c : LongCommand)
    (hc : c = .suspend o (s.order o) ∨ c = .originatorOff o (s.order o)) :
    (((s.receive code).setOriginator o x).execute c).checkDrained =
      { withContext s o { s.context o with state := x } with
        engine := if s.order o = [] then ended s .ok [] else held s c } := by
  have hdrained : c.drained = true ↔ s.order o = [] := by
    rcases hc with rfl | rfl <;> simp [LongCommand.drained]
  simp only [State.checkDrained, State.execute_engine, hdrained]
  split <;> rfl

/-- Settles O52: each command by the state of the originator. -/
theorem originatorStateCommands : Obligations.OriginatorStateCommands := by
  refine ⟨fun s b more o => ⟨fun hrange => ⟨fun h => ?_, fun h => ?_, fun h => ?_⟩,
      fun ho => ⟨fun h => ?_, fun h => ?_, fun h => ?_⟩⟩,
    fun s b more o => ⟨fun hrange => ⟨fun h => ?_, fun h => ?_⟩, fun ho => ⟨fun h => ?_, fun h => ?_⟩⟩⟩
  case refine_1 =>
    refine (frame_runs s 0x10 1 _ (fun s => s.runOriginatorOn (b :: more)) h (by simp)).trans ?_
    rw [State.runOriginatorOn, originatorArg_above b more hrange]
    rfl
  case refine_2 =>
    refine (frame_runs s 0x13 1 _ (fun s => s.runResume (b :: more)) h (by simp)).trans ?_
    rw [State.runResume, originatorArg_above b more hrange]
    rfl
  case refine_3 =>
    refine (frame_runs s 0x14 1 _ (fun s => s.runReleaseQuarantine (b :: more)) h (by simp)).trans ?_
    rw [State.runReleaseQuarantine, originatorArg_above b more hrange]
    rfl
  case refine_4 =>
    refine (frame_runs s 0x10 1 _ (fun s => s.runOriginatorOn (b :: more)) h (by simp)).trans ?_
    rw [State.runOriginatorOn, originatorArg_cons b more o ho, ← apply_ite]
    rfl
  case refine_5 =>
    refine (frame_runs s 0x13 1 _ (fun s => s.runResume (b :: more)) h (by simp)).trans ?_
    rw [State.runResume, originatorArg_cons b more o ho, ← apply_ite]
    rfl
  case refine_6 =>
    refine (frame_runs s 0x14 1 _ (fun s => s.runReleaseQuarantine (b :: more)) h (by simp)).trans ?_
    rw [State.runReleaseQuarantine, originatorArg_cons b more o ho, ← apply_ite]
    rfl
  case refine_7 =>
    refine (frame_runs s 0x12 1 _ (fun s => s.runSuspend (b :: more)) h (by simp)).trans ?_
    rw [State.runSuspend, originatorArg_above b more hrange]
    rfl
  case refine_8 =>
    refine (frame_runs s 0x11 1 _ (fun s => s.runOriginatorOff (b :: more)) h (by simp)).trans ?_
    rw [State.runOriginatorOff, originatorArg_above b more hrange]
    rfl
  case refine_9 =>
    refine (frame_runs s 0x12 1 _ (fun s => s.runSuspend (b :: more)) h (by simp)).trans ?_
    rw [State.runSuspend, originatorArg_cons b more o ho, ← apply_ite,
      ← receive_drains s 0x12 o .suspended _ (.inl rfl)]
    rfl
  case refine_10 =>
    refine (frame_runs s 0x11 1 _ (fun s => s.runOriginatorOff (b :: more)) h (by simp)).trans ?_
    rw [State.runOriginatorOff, originatorArg_cons b more o ho, ← apply_ite,
      ← receive_drains s 0x11 o .off _ (.inr rfl)]
    rfl

/-! ## CACHE_READ (R81, R182) -/

theorem marks_byte_eq_add (m : Marks) :
    m.byte = (if m.used = true then 1 else 0) + (if m.written = true then 2 else 0) := by
  rcases m with ⟨u, w⟩
  cases u <;> cases w <;> rfl

theorem recencyPosition_of_held (c : Cache) (e : EntryIx) (h : (c.entry e).isFree = false) :
    c.recencyPosition e = c.recency.idxOf e := by
  rw [Cache.recencyPosition, if_neg (by simp [h])]

/-- Settles O56: the 14 bytes of TABLE 55, by the state of the entry. -/
theorem cacheReadReturnsEntry : Obligations.CacheReadReturnsEntry := by
  intro s b more h
  have hexec : exec (.cacheRead (b :: more)) s = .next ((s.receive 0x26).runCacheRead (b :: more)) :=
    frame_runs s 0x26 1 _ (fun s => s.runCacheRead (b :: more)) h (by simp)
  rw [hexec, State.runCacheRead]
  refine ⟨fun hrange => ?_, fun e he => ?_⟩
  · rw [dif_neg (by rw [arg_cons_zero]; omega)]
    rfl
  · have harg : arg (b :: more) 0 = e.val := he
    simp only [harg, e.isLt, dif_pos, finish_receive, State.receive_cache, Cache.readLayout]
    rcases hx : s.cache.entry e with _ | ⟨k, p, d, st, m⟩ | ⟨k, p⟩ | k
    case free => simp [hx, Entry.code, Entry.key?, Entry.pinned, Entry.statusFields, Cache.recencyPosition, Entry.isFree,
      byte, byteOfBool]
    all_goals rw [recencyPosition_of_held s.cache e (by rw [hx]; rfl)]
    case valid =>
      simp only [Entry.code, Entry.key?, Entry.statusFields, Entry.pinned, marks_byte_eq_add]
      rfl
    case absent => rfl
    case stale => rfl

/-! ## ENGAGE and SOFT_RESET (R158, R161, R185) -/

theorem context_receive (s : State) (code : Byte) (o : Originator) : (s.receive code).context o = s.context o := rfl

/-- Settles O58: the condition of ENGAGE, and the drain condition that follows it. -/
theorem engageSwitchesOrDrains : Obligations.EngageSwitchesOrDrains := by
  intro s args h
  have hexec : exec (.engage args) s = .next (s.receive 0x3A).runEngage :=
    frame_runs s 0x3A 0 args State.runEngage h (Nat.zero_le _)
  rw [hexec, State.runEngage, State.receive_mode, context_receive]
  refine ⟨fun hnot => ?_, fun hmode hactive hdrained => ?_, fun hmode hactive hdraining => ?_⟩
  · rw [if_neg fun hboth => ?_]
    · rfl
    · rcases hnot with hrun | hstate
      · rw [hboth.1] at hrun
        cases hrun
      · exact hstate hboth.2
  · rw [if_pos ⟨hmode, hactive⟩]
    exact congrArg Host.Outcome.next
      ((State.checkEngaged_of_drained ({ s.receive 0x3A with sequence := .engaging }.execute .engage) rfl
        hdrained).trans rfl)
  · rw [if_pos ⟨hmode, hactive⟩]
    exact congrArg Host.Outcome.next
      (State.checkEngaged_of_draining ({ s.receive 0x3A with sequence := .engaging }.execute .engage) hdraining)

end Sys2Proof.Proofs
end

section
/-! PROOFS. The front port: admission, the response presented, and the departure of a response. -/

namespace Sys2Proof.Proofs

open Sys2Proof.Machine Sys2Proof.Claims

/-! ## Admission (R40 to R43) -/

theorem allSlots_eq_finRange : allSlots = List.finRange 8 := by decide

theorem allEntries_eq_finRange : allEntries = List.finRange 16 := by decide

theorem isOpen_iff (s : State) : s.isOpen = true ↔ s.resetActive = false ∧ s.sequence.inReset = false := by
  simp [State.isOpen]

theorem keptData_eq (r : FrontRequest) : keptData r = if r.kindCode = 1 then some r.wdata else none := by
  unfold keptData AccessKind.ofCode
  split <;> split <;> simp_all

theorem admissionSlot_of_room (s : State) (o : Originator) (i : SlotIx) (hreset : s.resetActive = false)
    (hseq : s.sequence.inReset = false) (hquota : s.heldCount o < 4) (hfree : s.slot i = .free)
    (hmin : ∀ j < i, s.slot j ≠ .free) : s.admissionSlot o = some i := by
  rw [State.admissionSlot, if_pos ⟨(isOpen_iff s).mpr ⟨hreset, hseq⟩, hquota⟩]
  exact (s.lowestFree_eq_some i).mpr ⟨hfree, hmin⟩

theorem admissionSlot_eq_none (s : State) (o : Originator)
    (h : s.resetActive = true ∨ s.sequence.inReset = true ∨ (∀ j, s.slot j ≠ .free) ∨ 4 ≤ s.heldCount o) :
    s.admissionSlot o = none := by
  unfold State.admissionSlot
  split
  case isFalse => rfl
  case isTrue hroom =>
    obtain ⟨hopen, hquota⟩ := hroom
    obtain ⟨hreset, hseq⟩ := (isOpen_iff s).mp hopen
    rcases h with h | h | h | h
    · rw [h] at hreset; cases hreset
    · rw [h] at hseq; cases hseq
    · exact s.lowestFree_eq_none.mpr h
    · omega

theorem exec_admission_some (s : State) (r : FrontRequest) (h : s.Settled) :
    exec (.admission (some r)) s = .next (s.present r) := by
  show Host.Outcome.next (s.settle.presentOn (some r)) = _
  rw [s.settle_of_settled h]
  rfl

theorem exec_admission_none (s : State) (r : FrontRequest) (h : s.Settled) (hw : s.waiting = some r) :
    exec (.admission none) s = .next (s.present r) := by
  show Host.Outcome.next (s.settle.presentOn none) = _
  rw [s.settle_of_settled h]
  simp only [State.presentOn, hw]

/-- Settles O13: by whether a slot can be given. -/
theorem admissionTakesLowestFreeSlotOrWaits : Obligations.AdmissionTakesLowestFreeSlotOrWaits := by
  intro s r hs
  rw [exec_admission_some s r hs, ← allSlots_eq_finRange]
  refine ⟨fun i hreset hseq hquota hfree hmin => ?_, fun hclosed => ?_⟩
  · have hpresent : s.present r = s.acceptInto i r := by
      rw [State.present, admissionSlot_of_room s r.org i hreset hseq hquota hfree hmin]
    rw [← keptData_eq, hpresent]
    refine ⟨rfl, fun hw => ?_⟩
    rw [exec_admission_none s r hs hw, hpresent]
    rfl
  · have hpresent : s.present r = { s with waiting := some r } := by
      rw [State.present, admissionSlot_eq_none s r.org hclosed]
    rw [hpresent]
    refine ⟨rfl, fun hw => ?_⟩
    rw [exec_admission_none s r hs hw, hpresent, ← hw]

/-! ## The response presented (R56, R57) -/

theorem presentable_of_order (s : State) (o : Originator) (i : SlotIx) (tail : List SlotIx) (h : s.order o = i :: tail) :
    s.presentable o = (s.slot i).isAnswered := by
  simp only [State.presentable, h, List.head?_cons]

theorem presentable_eq_false (s : State) (o : Originator)
    (h : ∀ j tl, s.order o = j :: tl → (s.slot j).isAnswered = false) : s.presentable o = false := by
  cases ho : s.order o with
  | nil => simp only [State.presentable, ho, List.head?_nil]
  | cons j tl => rw [presentable_of_order s o j tl ho, h j tl ho]

theorem exec_responsePresented (s : State) (h : s.Settled) : exec .responsePresented s = .next s.presentResponse := by
  show Host.Outcome.next s.settle.presentResponse = _
  rw [s.settle_of_settled h]

/-- Settles O14: the round robin from the response pointer. -/
theorem responsePresentedRoundRobin : Obligations.ResponsePresentedRoundRobin := by
  intro s hs
  rw [exec_responsePresented s hs, State.presentResponse]
  refine ⟨fun o i tail k hreset hpres hk ho hans hbefore => ?_, fun hnone => ?_⟩
  · have hfirst : roundRobin s.intake.responsePtr s.presentable = some o :=
      (roundRobin_eq_some _ _ _).mpr ⟨(presentable_of_order s o i tail ho).trans hans, k, hk,
        fun k' hk' => presentable_eq_false s _ (hbefore k' hk')⟩
    rw [if_neg (by simp [hreset, hpres]), hfirst]
    simp only [ho, List.head?_cons]
  · rcases hnone with h | h | h
    · rw [if_pos (.inl h)]
    · rw [if_pos (.inr h)]
    · rw [(roundRobin_eq_none _ _).mpr fun o => presentable_eq_false s o (h o)]
      split <;> rfl

/-! ## The departure of a response (R58, R159, R164) -/

/-- The presented response of slot `i` leaves, and drains, ENGAGE and SOFT_RESET look at what is left. -/
theorem exec_responseDeparture (s : State) (i : SlotIx) (a : Access) (d : Option Data) (st : Stage)
    (hreset : s.resetActive = false) (hs : s.Settled) (hpres : s.intake.presented = some i)
    (hslot : s.slot i = .held a d st) :
    exec .responseDeparture s = .next (((s.vacate i a.org).leaveDrain i).checkEngaged.checkAnswered) := by
  show Host.Outcome.next s.settle.depart = _
  rw [s.settle_of_settled hs, State.depart, if_neg (by simp [hreset])]
  simp only [hpres, hslot]

theorem leaveDrain_sequence (s : State) (i : SlotIx) : (s.leaveDrain i).sequence = s.sequence := by
  rw [State.leaveDrain_eq]

/-- Settles O15: by the command that executes. -/
theorem departureFreesSlotAndDrains : Obligations.DepartureFreesSlotAndDrains := by
  intro s i a d st hreset hs hengaging hanswer hpres hslot
  rw [exec_responseDeparture s i a d st hreset hs hpres hslot,
    State.checkEngaged_of_ne _ (by rw [leaveDrain_sequence]; exact hengaging),
    State.checkAnswered_of_ne _ (by rw [leaveDrain_sequence]; exact hanswer), ← resultBytes_nil]
  have hengine : (s.vacate i a.org).engine = s.engine := rfl
  have hunchanged : ∀ p, s.engine.phase = p → (∀ c, p = .executing c → c.hasDrain = false) →
      (s.vacate i a.org).leaveDrain i = { s.vacate i a.org with engine := { s.engine with phase := p } } := by
    rintro p rfl hp
    exact State.leaveDrain_of_other _ i hp
  rcases hphase : s.engine.phase with _ | code | c | ⟨r, b⟩
  case executing =>
    cases c with
    | suspend o ds =>
      rw [State.leaveDrain_of_suspend _ i o ds (by rw [hengine, hphase])]
      by_cases hds : ds.erase i = []
      · simp only [if_pos hds]
        rfl
      · simp only [if_neg hds]
        rfl
    | originatorOff o ds =>
      rw [State.leaveDrain_of_originatorOff _ i o ds (by rw [hengine, hphase])]
      by_cases hds : ds.erase i = []
      · simp only [if_pos hds]
        rfl
      · simp only [if_neg hds]
        rfl
    | pin k | probe k | engage | softReset =>
      rw [hunchanged _ hphase (by rintro c ⟨⟩; rfl)]
      rfl
  all_goals
    rw [hunchanged _ hphase (by rintro c ⟨⟩)]
    rfl

/-- While ENGAGE or SOFT_RESET executes no command drains. -/
theorem vacate_leaveDrain_of_executing (s : State) (i : SlotIx) (o : Originator) (c : LongCommand)
    (hphase : s.engine.phase = .executing c) (hc : c.hasDrain = false) :
    (s.vacate i o).leaveDrain i = s.vacate i o :=
  State.leaveDrain_of_other _ i fun c' h => by
    have : c = c' := by
      rw [State.vacate_engine, hphase] at h
      cases h
      rfl
    exact this ▸ hc

/-- Settles O16: by what the other slots hold. -/
theorem lastResponseEndsEngageOrSoftReset : Obligations.LastResponseEndsEngageOrSoftReset := by
  refine ⟨fun s i a d st hreset hs hseq hphase hpres hslot => ?_, fun s i a d st hreset hs hseq hphase hpres hslot => ?_⟩
  · rw [exec_responseDeparture s i a d st hreset hs hpres hslot, vacate_leaveDrain_of_executing s i a.org _ hphase rfl,
      ← resultBytes_nil]
    refine ⟨fun hothers => ?_, fun ⟨j, hj, hpast⟩ => ?_⟩
    · rw [State.checkEngaged_of_drained (s.vacate i a.org) hseq fun j => ?_, State.checkAnswered_of_ne]
      · rfl
      · simp
      · rw [State.vacate_slot]
        split
        · rfl
        · exact hothers j (Ne.symm ‹_›)
    · rw [State.checkEngaged_of_draining _ ⟨j, by rw [State.vacate_slot, if_neg hj.symm]; exact hpast⟩,
        State.checkAnswered_of_ne _ (by rw [State.vacate_sequence, hseq]; decide)]
      rfl
  · rw [exec_responseDeparture s i a d st hreset hs hpres hslot, vacate_leaveDrain_of_executing s i a.org _ hphase rfl,
      State.checkEngaged_of_ne _ (by rw [State.vacate_sequence, hseq]; decide), ← resultBytes_nil]
    refine ⟨fun hothers => ?_, fun ⟨j, hj, hheld⟩ => ?_⟩
    · rw [State.checkAnswered_of_empty (s.vacate i a.org) hseq fun j => ?_]
      · rfl
      · rw [State.vacate_slot]
        split
        · rfl
        · exact hothers j (Ne.symm ‹_›)
    · rw [State.checkAnswered_of_held _ ⟨j, by rw [State.vacate_slot, if_neg hj.symm]; exact hheld⟩]
      rfl

end Sys2Proof.Proofs
end

section
/-! PROOFS. Operands: the evaluation of an access, the judgement of eight bytes, data order, the table watch, beats. -/

namespace Sys2Proof.Proofs

open Sys2Proof.Machine Sys2Proof.Claims

/-! ## Steps 4 to 6 (R12 to R20) -/

theorem evaluate_pass (d : Descriptor) (a : Access) (t : Translation) (h : d.evaluate a = .pass t) :
    t = d.translate a ∧ offsetOf a.addr + a.size.bytes ≤ d.length * 256 := by
  unfold Descriptor.evaluate at h
  split at h
  · cases h
  split at h
  · cases h
  split at h
  · cases h
  · cases h
    exact ⟨rfl, Nat.not_lt.mp ‹_›⟩

theorem wellFormed_iff (d : Descriptor) :
    d.wellFormed = true ↔
      (d.b0.toNat + d.b1.toNat + d.b2.toNat + d.b3.toNat + d.b4.toNat + d.b5.toNat + d.b6.toNat) % 256 = 0xA5 ∧
        1 ≤ d.length ∧ d.length ≤ 1024 ∧ d.base * 256 + d.length * 256 ≤ 16777216 := by
  simp only [Descriptor.wellFormed, Descriptor.checkPasses, Bool.and_eq_true, decide_eq_true_eq, and_assoc]

theorem bytes_pos (z : AccessSize) : 1 ≤ z.bytes := by
  cases z <;> decide

/-- Settles O17: the window of a well-formed descriptor ends inside its target, so that the sum is not truncated. -/
theorem stepsFourToSixInOrder : Obligations.StepsFourToSixInOrder := by
  refine ⟨fun d ⟨o, k, z, x⟩ => ?_, fun d a t hwf hpass => ?_⟩
  · cases k <;> cases z <;> rfl
  · obtain ⟨rfl, hlimit⟩ := evaluate_pass d a t hpass
    obtain ⟨-, -, -, hend⟩ := (wellFormed_iff d).mp hwf
    have hsize := bytes_pos a.size
    have haddr : (d.translate a).place.addr.toNat = d.base * 256 + offsetOf a.addr := by
      show (BitVec.ofNat 24 (d.base * 256 + offsetOf a.addr)).toNat = _
      rw [BitVec.toNat_ofNat]
      omega
    exact ⟨haddr, by omega⟩

/-! ## The judgement of a table read (R9, R10, R96) -/

/-- Settles O18. -/
theorem tableBytesJudged : Obligations.TableBytesJudged := by
  intro b0 b1 b2 b3 b4 b5 b6 b7 d sum base length
  have hwf : d.wellFormed = true ↔ sum % 256 = 0xA5 ∧ 1 ≤ length ∧ length ≤ 1024 ∧ base * 256 + length * 256 ≤ 16777216 :=
    wellFormed_iff d
  show (if b0.getLsbD 0 = false then TableContents.absent
    else if d.wellFormed = false then .malformed b5 else .valid d b7) = _
  by_cases habsent : b0.getLsbD 0 = false
  · rw [if_pos habsent, if_pos habsent]
  · rw [if_neg habsent, if_neg habsent]
    by_cases hd : d.wellFormed = true
    · rw [if_neg (by simp [hd]), if_pos (hwf.mp hd)]
    · rw [if_pos (by simpa using hd), if_neg (mt hwf.mpr hd)]

/-! ## Data order (R16, R17) -/

/-- The bits of the value of `n` bytes of `v` from byte `m` on. -/
theorem valueOf_getLsbD (v : Data) (n m i : Nat) :
    (valueOf ((List.range' m n).map (byteAt v))).getLsbD i =
      (decide (i < 32) && decide (i < 8 * n) && v.getLsbD (8 * m + i)) := by
  induction n generalizing m i with
  | zero => simp [valueOf]
  | succ n ih =>
    simp only [List.range'_succ, List.map_cons, valueOf, BitVec.getLsbD_or, BitVec.getLsbD_shiftLeft, ih,
      BitVec.getLsbD_setWidth, byteAt, BitVec.getLsbD_extractLsb']
    by_cases hi : i < 8
    · simp [hi, show i < 32 by omega, show i < 8 * (n + 1) by omega]
    · have hbyte : 8 * (m + 1) + (i - 8) = 8 * m + i := by omega
      have hlow : i - 8 < 8 * n ↔ i < 8 * (n + 1) := by omega
      simp only [hi, hbyte, hlow]
      by_cases h32 : i < 32 <;> simp [h32, Nat.sub_lt_of_lt]

theorem valueOf_bytes (v : Data) (z : AccessSize) :
    valueOf ((List.range z.bytes).map (byteAt v)) = v &&& (BitVec.allOnes 32 >>> (32 - 8 * z.bytes)) := by
  apply BitVec.eq_of_getLsbD_eq
  intro i hi
  rw [List.range_eq_range', valueOf_getLsbD, BitVec.getLsbD_and, BitVec.getLsbD_ushiftRight, BitVec.getLsbD_allOnes]
  have hsize : 8 * z.bytes ≤ 32 := by cases z <;> decide
  have : 32 - 8 * z.bytes + i < 32 ↔ i < 8 * z.bytes := by omega
  simp [this, hi, Bool.and_comm]

/-- Settles O19: reversing twice is no reversal. -/
theorem swapPlacesAndReturnsBytes : Obligations.SwapPlacesAndReturnsBytes := by
  intro swap size v
  refine ⟨?_, fun k hk => ?_, ?_⟩
  · cases swap <;> simp [placedBytes]
  · cases swap <;> simp [placedBytes, byteAt, List.getD_eq_getElem?_getD, hk]
  · rw [← valueOf_bytes]
    cases swap <;> simp [placedBytes, assemble]

/-! ## The table watch (R104) -/

theorem touches_iff (c : Context) (p : Place) (n : Nat) (w : Window) :
    c.touches p n w = true ↔
      c.windowCount.val ≠ 0 ∧ c.tableTarget = p.target ∧ w.val < c.windowCount.val ∧
        p.addr.toNat < c.tableStart + 8 * w.val + 8 ∧ c.tableStart + 8 * w.val < p.addr.toNat + n := by
  simp only [Context.touches, Bool.and_eq_true, decide_eq_true_eq, and_assoc]

/-- Two runs of bytes overlap exactly when they have a byte in common. -/
theorem overlap_iff (p x n : Nat) (hn : 1 ≤ n) :
    (p < x + 8 ∧ x < p + n) ↔ ∃ j k, j < n ∧ k < 8 ∧ p + j = x + k := by
  constructor
  · rintro ⟨hp, hx⟩
    rcases Nat.le_total p x with h | h
    · exact ⟨x - p, 0, by omega, by omega, by omega⟩
    · exact ⟨0, p - x, by omega, by omega, by omega⟩
  · rintro ⟨j, k, hj, hk, h⟩
    omega

/-- Settles O28. -/
theorem tableWatchCoversTouchedDescriptors : Obligations.TableWatchCoversTouchedDescriptors := by
  intro c p n w hn
  have hcount : c.windowCount.val ≠ 0 ↔ c.windowCount ≠ 0 := not_congr (Fin.ext_iff (b := 0)).symm
  rw [touches_iff, overlap_iff _ _ _ hn, hcount]
  rfl

/-! ## Beats (R124, R125) -/

theorem flatMap_halfwords (q h : Nat) :
    (List.range h).flatMap (fun k => [2 * (q + k), 2 * (q + k) + 1]) = List.range' (2 * q) (2 * h) := by
  induction h with
  | zero => rfl
  | succ h ih =>
    rw [List.range_succ, List.flatMap_append, ih, List.flatMap_singleton, show 2 * (h + 1) = 2 * h + 2 by omega,
      ← List.range'_append_1, Nat.mul_add]
    rfl

/-- The part of a run of numbers that lies in a run inside it. -/
theorem range'_filter (a m p n : Nat) (ha : a ≤ p) (hm : p + n ≤ a + m) :
    (List.range' a m).filter (fun x => decide (p ≤ x) && decide (x < p + n)) = List.range' p n := by
  have hsplit : List.range' a m = List.range' a (p - a) ++ (List.range' p n ++ List.range' (p + n) (a + m - (p + n))) := by
    have h1 : List.range' p n ++ List.range' (p + n) (a + m - (p + n)) = List.range' p (a + m - p) := by
      rw [List.range'_append_1]
      congr 1
      omega
    have h2 : List.range' a (p - a) ++ List.range' p (a + m - p) = List.range' a m := by
      have := List.range'_append_1 (s := a) (m := p - a) (n := a + m - p)
      rw [show a + (p - a) = p by omega, show p - a + (a + m - p) = m by omega] at this
      exact this
    rw [h1, h2]
  have hbefore : (List.range' a (p - a)).filter (fun x => decide (p ≤ x) && decide (x < p + n)) = [] := by
    rw [List.filter_eq_nil_iff]
    intro x hx
    rw [List.mem_range'_1] at hx
    simp only [Bool.and_eq_true, decide_eq_true_eq]
    omega
  have hinside : (List.range' p n).filter (fun x => decide (p ≤ x) && decide (x < p + n)) = List.range' p n := by
    rw [List.filter_eq_self]
    intro x hx
    rw [List.mem_range'_1] at hx
    simp only [Bool.and_eq_true, decide_eq_true_eq]
    omega
  have hbehind : (List.range' (p + n) (a + m - (p + n))).filter (fun x => decide (p ≤ x) && decide (x < p + n)) = [] := by
    rw [List.filter_eq_nil_iff]
    intro x hx
    rw [List.mem_range'_1] at hx
    simp only [Bool.and_eq_true, decide_eq_true_eq]
    omega
  rw [hsplit, List.filter_append, List.filter_append, hbefore, hinside, hbehind, List.nil_append, List.append_nil]

/-- The addresses of a halfword beat: the bytes of the halfword that lie in the run that is moved. -/
theorem halfword_addrs (p n x : Nat) :
    Beat.addrs
        { ma := BitVec.ofNat 24 x
          lane0 := decide (p ≤ x) && decide (x < p + n)
          lane1 := decide (p ≤ x + 1) && decide (x + 1 < p + n) } =
      (([x, x + 1].filter fun y => decide (p ≤ y) && decide (y < p + n)).map fun y => BitVec.ofNat 24 y) := by
  have hsucc : BitVec.ofNat 24 x + 1 = BitVec.ofNat 24 (x + 1) := by
    rw [BitVec.ofNat_add]
    rfl
  simp only [Beat.addrs, hsucc, List.filter_cons, List.filter_nil]
  split <;> split <;> rfl

theorem beats_addrs (w : Width) (p n : Nat) (hn : 1 ≤ n) :
    (beatsOf w p n).flatMap (fun b => b.addrs) = (List.range n).map fun k => BitVec.ofNat 24 (p + k) := by
  cases w with
  | w8 =>
    simp only [beatsOf, List.flatMap_map, Beat.addrs, if_true, Bool.false_eq_true, if_false, List.append_nil,
      ← List.map_eq_flatMap]
  | w16 =>
    have hrun := range'_filter (2 * (p / 2)) (2 * ((p + n - 1) / 2 - p / 2 + 1)) p n (by omega) (by omega)
    simp only [beatsOf, List.flatMap_map, halfword_addrs]
    rw [← List.map_flatMap, ← List.filter_flatMap, flatMap_halfwords, hrun, List.range'_eq_map_range, List.map_map]
    rfl

/-- Settles O31. -/
theorem beatsMoveEveryByteOnce : Obligations.BeatsMoveEveryByteOnce := by
  refine ⟨⟨fun w p n hn _ => beats_addrs w p n hn, fun p n => ?_, fun p => ?_, fun p => ?_, fun p => ?_, fun p => ?_⟩,
    fun pr x hpr => ⟨?_, ?_⟩⟩
  · simp [beatsOf]
  · simp [beatsOf]
  · simp only [beatsOf, List.length_map, List.length_range]
    split <;> omega
  · simp only [beatsOf, List.length_map, List.length_range]
    split <;> omega
  · simp only [beatsOf, List.length_map, List.length_range]
    omega
  · simp only [Progress.periodsToEnd, hpr, show 1 + pr.timing.accessWait.toNat + x + 1 = 2 + pr.timing.accessWait.toNat + x
      by omega]
  · simp only [Progress.periodsToAbandon, hpr]

end Sys2Proof.Proofs
end

section
/-! PROOFS. Refusals in the words of the claims, the turns in RUN, and the wakes. -/

namespace Sys2Proof.Proofs

open Sys2Proof.Machine Sys2Proof.Claims

/-! ## Refusals (R35, R37, R52) -/

theorem Counts_iff_counts (s : State) (o : Originator) (cause : Cause) :
    Counts s o cause ↔ (s.context o).counts s.mode cause = true := by
  rw [Context.counts_iff, Cause.counted_iff]
  simp [Counts]

theorem raisedCount_eq (c : Context) : (if c.count = c.limit then c.limit else c.count + 1) = raisedCount c := by
  unfold raisedCount
  split
  case isTrue h => exact h.symm
  case isFalse => rfl

theorem raisedCount_below (c : Context) (h : raisedCount c ≠ c.limit) : raisedCount c = c.count + 1 := by
  unfold raisedCount at h ⊢
  split
  case isTrue heq =>
    rw [if_pos heq] at h
    exact absurd heq h
  case isFalse => rfl

/-- A counted refusal below the limit raises the count and does not quarantine. -/
theorem quarantines_below (s : State) (o : Originator) (cause : Cause) (hcounts : Counts s o cause)
    (hbelow : raisedCount (s.context o) ≠ (s.context o).limit) :
    (s.context o).afterCounted = { s.context o with count := raisedCount (s.context o) } ∧
      s.quarantines o cause = false := by
  have hafter : (s.context o).afterCounted = { s.context o with count := raisedCount (s.context o) } := by
    rw [Context.afterCounted_below _ (by rwa [raisedCount_eq]), raisedCount_below _ hbelow]
  refine ⟨hafter, ?_⟩
  obtain ⟨-, -, -, hstate⟩ := hcounts
  simp only [State.quarantines, hafter, Bool.and_eq_false_iff, decide_eq_false_iff_not]
  right
  rcases hstate with h | h <;> rw [h] <;> decide

/-- A counted refusal that brings the count to the limit quarantines. -/
theorem quarantines_limit (s : State) (o : Originator) (cause : Cause) (hcounts : Counts s o cause)
    (hlimit : raisedCount (s.context o) = (s.context o).limit) :
    (s.context o).afterCounted = { s.context o with count := (s.context o).limit, state := .quarantined } ∧
      s.quarantines o cause = true := by
  have hafter := Context.afterCounted_limit (s.context o) (by rwa [raisedCount_eq])
  refine ⟨hafter, ?_⟩
  rw [State.quarantines, (Counts_iff_counts s o cause).mp hcounts, hafter]
  rfl

/-- A refusal at resolution is the refusal that the claims describe. -/
theorem refusedWith_refuse (s : State) (i : SlotIx) (a : Access) (d : Option Data) (st : Stage) (cause : Cause)
    (stamp : Option Byte) (hslot : s.slot i = .held a d st) :
    RefusedWith s (s.refuse i a cause stamp none none) i a d cause stamp := by
  refine ⟨?_, fun j hj => ?_, fun hnot => ?_, fun hcounts hbelow => ?_, fun hcounts hlimit => ?_⟩
  · rw [State.refuse_slot, if_pos rfl, hslot]
    rfl
  · rw [State.refuse_slot, if_neg (Ne.symm hj)]
  · rw [State.refuse_of_uncounted _ _ _ _ _ _ _ (Bool.eq_false_iff.mpr (mt (Counts_iff_counts _ _ _).mpr hnot))]
    exact ⟨rfl, rfl⟩
  · obtain ⟨hafter, hquarantine⟩ := quarantines_below s a.org cause hcounts hbelow
    rw [State.refuse_contexts, State.refuse_log, if_pos ((Counts_iff_counts _ _ _).mp hcounts), hafter, hquarantine]
    exact ⟨rfl, rfl⟩
  · obtain ⟨hafter, hquarantine⟩ := quarantines_limit s a.org cause hcounts hlimit
    rw [State.refuse_contexts, State.refuse_log, if_pos ((Counts_iff_counts _ _ _).mp hcounts), hafter, hquarantine]
    exact ⟨rfl, rfl⟩

/-- A refusal for a cause that never counts. -/
theorem refuse_uncounted (s : State) (i : SlotIx) (a : Access) (d : Option Data) (st : Stage) (cause : Cause)
    (stamp : Option Byte) (place : Option Place) (detail : Option Byte) (hslot : s.slot i = .held a d st)
    (hcause : cause.counted = false) :
    s.refuse i a cause stamp place detail = { s with
      log := s.log.offer (recordOf cause a stamp place detail)
      intake := { s.intake with slots := poke s.intake.slots i (.held a d (.answerReady none (.refused cause))) } } := by
  rw [State.refuse_of_uncounted _ _ _ _ _ _ _ (by simp [Context.counts, hcause]), hslot]
  rfl

/-! ## Who gets a turn (R47, R48) -/

theorem inSuspendDrain_iff (s : State) (o : Originator) (i : SlotIx) :
    s.inSuspendDrain o i = true ↔ ∃ ds, s.engine.phase = .executing (.suspend o ds) ∧ i ∈ ds := by
  unfold State.inSuspendDrain
  split
  case h_1 o' ds hphase =>
    rw [hphase]
    simp only [Bool.and_eq_true, decide_eq_true_eq, List.contains_iff_mem]
    constructor
    · rintro ⟨rfl, hi⟩
      exact ⟨ds, rfl, hi⟩
    · rintro ⟨ds', heq, hi⟩
      cases heq
      exact ⟨rfl, hi⟩
  case h_2 hother =>
    simp only [Bool.false_eq_true, false_iff]
    rintro ⟨ds, heq, -⟩
    exact hother o ds heq

theorem holds_eq_false (s : State) (o : Originator) (i : SlotIx) :
    s.holds o i = false ↔ (s.context o).state ≠ .suspended ∨
      ∃ ds, s.engine.phase = .executing (.suspend o ds) ∧ i ∈ ds := by
  rw [← inSuspendDrain_iff, State.holds, Bool.and_eq_false_iff, decide_eq_false_iff_not, Bool.not_eq_false']

theorem turnsGiven_iff (s : State) : s.turnsGiven = true ↔ s.resetActive = false ∧ s.sequence = .none := by
  simp [State.turnsGiven]

/-- Settles O20. -/
theorem turnsWithheld : Obligations.TurnsWithheld := by
  refine fun s => ⟨fun o i hold => ?_, fun o hold => ?_, fun hs hnone => ?_⟩
  · rw [eligible_iff s o i hold, turnsGiven_iff, holds_eq_false, and_assoc]
  · simp only [State.eligible, hold]
  · show Host.Outcome.next s.settle.giveTurn = _
    rw [s.settle_of_settled hs, State.giveTurn, (roundRobin_eq_none _ _).mpr hnone]

/-! ## The turn in RUN (R18, R19, R49, R50) -/

theorem windowOf_val (x : Addr) : (windowOf x).val = windowNumber x := by
  have := x.isLt
  show x.toNat / 262144 % 64 = x.toNat / 262144
  omega

/-- In RUN the turn moves the pointer behind `o` and takes the steps of the evaluation order (R48, R154). -/
theorem turn_run (s : State) (o : Originator) (i : SlotIx) (a : Access) (d : Option Data) (st : Stage)
    (hslot : s.slot i = .held a d st) (hmode : s.mode = .run) : s.turn o i = (pointerBehind s o).turnRun i a := by
  simp only [State.turn, hslot, hmode, pointerBehind]

/-- Steps 1 and 2 passed: the lookup. -/
theorem turnRun_lookup (s : State) (i : SlotIx) (a : Access)
    (hstate : (s.context a.org).state = .active ∨ (s.context a.org).state = .suspended)
    (hwindow : windowNumber a.addr < (s.context a.org).windowCount.val) : s.turnRun i a = s.turnLookup i a := by
  have hcount : ¬ (s.context a.org).windowCount.val ≤ (windowOf a.addr).val := by rw [windowOf_val]; omega
  rcases hstate with h | h <;> simp only [State.turnRun, h, if_neg hcount]

theorem exec_turn_lookup (s : State) (o : Originator) (i : SlotIx) (a : Access) (d : Option Data) (h : TurnOf s o i a d)
    (hmode : s.mode = .run) (horg : a.org = o)
    (hstate : (s.context o).state = .active ∨ (s.context o).state = .suspended)
    (hwindow : windowNumber a.addr < (s.context o).windowCount.val) :
    exec .resolutionTurn s = .next ((pointerBehind s o).turnLookup i a) := by
  rw [exec_resolutionTurn_eq_turn s o i a d h]
  obtain ⟨-, -, -, -, -, hslot⟩ := h
  subst horg
  rw [turn_run s a.org i a d .queued hslot hmode, turnRun_lookup (pointerBehind s a.org) i a hstate hwindow]

/-- The state of a turn that the lookup has left with cache `c`: the pointer behind `o` (R48, R67). -/
def turnWith (s : State) (o : Originator) (c : Cache) : State := { pointerBehind s o with cache := c }

/-- A refusal at a turn, whatever the lookup did to the cache: what it changes. -/
theorem turnFrame_refuse (s : State) (o : Originator) (c : Cache) (i : SlotIx) (a : Access) (cause : Cause)
    (stamp : Option Byte) :
    TurnFrame s ((turnWith s o c).refuse i a cause stamp none none) ∧
      ((turnWith s o c).refuse i a cause stamp none none).intake.turnPtr = o + 1 ∧
      ((turnWith s o c).refuse i a cause stamp none none).cache = c ∧
      ((turnWith s o c).refuse i a cause stamp none none).fetch = s.fetch := by
  rw [State.refuse_eq]
  exact ⟨⟨⟨rfl, rfl, rfl, rfl, rfl, rfl⟩, rfl, rfl, rfl, rfl, rfl, rfl⟩, rfl, rfl, rfl⟩

theorem refusedWith_turn (s : State) (o : Originator) (c : Cache) (i : SlotIx) (a : Access) (d : Option Data)
    (cause : Cause) (stamp : Option Byte) (hslot : s.slot i = .held a d .queued) :
    RefusedWith s ((turnWith s o c).refuse i a cause stamp none none) i a d cause stamp :=
  refusedWith_refuse (turnWith s o c) i a d .queued cause stamp hslot

/-- Steps 1 and 2 failed. -/
theorem turnRun_refused (s : State) (i : SlotIx) (a : Access) (cause : Cause)
    (h : (s.context a.org).state = .off ∧ cause = .originatorOff ∨
      (s.context a.org).state = .quarantined ∧ cause = .quarantined ∨
      ((s.context a.org).state = .active ∨ (s.context a.org).state = .suspended) ∧
        (s.context a.org).windowCount.val ≤ windowNumber a.addr ∧ cause = .noWindow) :
    s.turnRun i a = s.refuse i a cause none none none := by
  rw [← windowOf_val] at h
  rcases h with ⟨h, rfl⟩ | ⟨h, rfl⟩ | ⟨h | h, hwindow, rfl⟩
  · simp only [State.turnRun, h]
  · simp only [State.turnRun, h]
  · simp only [State.turnRun, h, if_pos hwindow]
  · simp only [State.turnRun, h, if_pos hwindow]

/-- Settles O22: the refusal at the turn. -/
theorem runTurnRefusedAtStepOneOrTwo : Obligations.RunTurnRefusedAtStepOneOrTwo := by
  intro s o i a d cause hturn hmode horg hcause
  rw [exec_resolutionTurn_eq_turn s o i a d hturn]
  obtain ⟨-, -, -, -, -, hslot⟩ := hturn
  subst horg
  rw [turn_run s a.org i a d .queued hslot hmode, turnRun_refused (pointerBehind s a.org) i a cause hcause]
  obtain ⟨hframe, hptr, hcache, hfetch⟩ := turnFrame_refuse s a.org s.cache i a cause none
  exact ⟨_, rfl, refusedWith_turn s a.org s.cache i a d cause none hslot, hframe, hptr, hcache, hfetch⟩

/-- A hit that translates: what the turn changes. -/
theorem turnFrame_resolve (s : State) (o : Originator) (i : SlotIx) (a : Access) (d : Option Data) (e : EntryIx)
    (desc : Descriptor) (t : Translation) (hslot : s.slot i = .held a d .queued) (hv : desc.evaluate a = .pass t) :
    let u := (turnWith s o (s.cache.touch e)).resolveAgainst i a e desc
    TurnFrame s u ∧ u.intake.turnPtr = o + 1 ∧ u.fetch = s.fetch ∧ u.contexts = s.contexts ∧ u.log = s.log ∧
      u.cache = (s.cache.touch e).raiseMarks e a.kind ∧
      ∀ j, u.slot j = if i = j then .held a d (.resolved t) else s.slot j := by
  intro u
  have hstage := setStage_held (turnWith s o (s.cache.touch e)) i a d .queued (.resolved t) hslot
  have hu : u = { (turnWith s o (s.cache.touch e)).setStage i (.resolved t) with
      cache := (s.cache.touch e).raiseMarks e a.kind } :=
    State.resolveAgainst_pass (turnWith s o (s.cache.touch e)) i a e desc t hv
  rw [hu, hstage]
  exact ⟨⟨⟨rfl, rfl, rfl, rfl, rfl, rfl⟩, rfl, rfl, rfl, rfl, rfl, rfl⟩, rfl, rfl, rfl, rfl, rfl,
    fun j => peek_poke s.intake.slots i j _⟩

theorem marks_isEmpty_iff (m : Marks) : m.isEmpty = true ↔ m = { used := false, written := false } := by
  rcases m with ⟨u, w⟩
  cases u <;> cases w <;> decide

/-- The asking order after marks are raised in a VALID entry (R110). -/
theorem raiseMarks_asking (c : Cache) (e : EntryIx) (kind : AccessKind) (k : Key) (p : Bool) (desc : Descriptor)
    (st : Byte) (m : Marks) (he : c.entry e = .valid k p desc st m) :
    (c.raiseMarks e kind).asking =
      if m = { used := false, written := false } ∧ m.raise st kind ≠ { used := false, written := false } then
        c.asking ++ [e]
      else c.asking := by
  simp only [Cache.raiseMarks, he, Entry.raise, Entry.hasMarks, Bool.not_eq_false', Bool.not_eq_true', ne_eq,
    ← marks_isEmpty_iff, Bool.not_eq_true]

/-- Settles O23: the hit decides by the entry, and a VALID one by steps 4 to 6. -/
theorem runTurnHitIsDecidedAtOnce : Obligations.RunTurnHitIsDecidedAtOnce := by
  intro s o i a d e key hturn hmode horg hstate hwindow hkey hfind
  rw [exec_turn_lookup s o i a d hturn hmode horg hstate hwindow]
  obtain ⟨-, -, -, -, -, hslot⟩ := hturn
  have hkey' : a.key = key := by rw [hkey, ← horg]; rfl
  have hfind' : (pointerBehind s o).cache.find a.key = some e := hkey' ▸ hfind
  have hentry : (pointerBehind s o).cache.entry e = s.cache.entry e := rfl
  rcases hx : s.cache.entry e with _ | ⟨k, p, desc, st, m⟩ | ⟨k, p⟩ | k
  case valid =>
    have hlookup : (pointerBehind s o).turnLookup i a =
        (turnWith s o (s.cache.touch e)).resolveAgainst i a e desc := by
      simp only [State.turnLookup, hfind', hentry, hx]
      rfl
    have htouched : (s.cache.touch e).entry e = .valid k p desc st m := hx
    rw [hlookup]
    rcases hv : desc.evaluate a with t | cause
    · obtain ⟨hframe, hptr, hfetch, hcontexts, hlog, hcache, hslots⟩ := turnFrame_resolve s o i a d e desc t hslot hv
      refine ⟨_, rfl, hframe, hptr, hfetch, by rw [hcache]; rfl, ?_⟩
      simp only [hv]
      refine ⟨(hslots i).trans (if_pos rfl), fun j hj => (hslots j).trans (if_neg (Ne.symm hj)), hcontexts, hlog, ?_, ?_⟩
      · rw [hcache]
        show poke s.cache.entries e ((s.cache.entry e).raise a.kind) = _
        rw [hx]
        rfl
      · rw [hcache]
        exact raiseMarks_asking (s.cache.touch e) e a.kind k p desc st m htouched
    · rw [State.resolveAgainst_fail _ i a e desc cause hv]
      obtain ⟨hframe, hptr, hcache, hfetch⟩ := turnFrame_refuse s o (s.cache.touch e) i a cause (some desc.stamp)
      refine ⟨_, rfl, hframe, hptr, hfetch, by rw [hcache]; rfl, ?_⟩
      simp only [hv]
      exact ⟨refusedWith_turn s o (s.cache.touch e) i a d cause (some desc.stamp) hslot, by rw [hcache]; rfl,
        by rw [hcache]; rfl⟩
  all_goals
    have hlookup : (pointerBehind s o).turnLookup i a =
        (turnWith s o (s.cache.touch e)).refuse i a .notPresent none none none := by
      simp only [State.turnLookup, hfind', hentry, hx]
      rfl
    rw [hlookup]
    obtain ⟨hframe, hptr, hcache, hfetch⟩ := turnFrame_refuse s o (s.cache.touch e) i a .notPresent none
    exact ⟨_, rfl, hframe, hptr, hfetch, by rw [hcache]; rfl,
      refusedWith_turn s o (s.cache.touch e) i a d .notPresent none hslot, by rw [hcache]; rfl, by rw [hcache]; rfl⟩

/-- Settles O24: the lookup and the placing of a miss, and the turn whose lookup misses. -/
theorem runTurnMissGoesToFetchUnit : Obligations.RunTurnMissGoesToFetchUnit := by
  refine ⟨fun c u k w => ⟨fun e he => ?_, ?_, fun f hmin => ⟨fun ws ov n ph hf => ?_, fun ws n place h hf => ?_⟩,
    fun hk => ⟨fun f hf hmin => ?_, fun hbusy => ?_⟩⟩, ?_⟩
  · exact (Entry.answers_iff k _).mp ((c.find_eq_some k e).mp he).1
  · rw [Cache.find_eq_none]
    simp only [← Entry.answers_iff, Bool.not_eq_true]
  · rw [u.placeMiss_attach k w f (by rw [hf]; rfl) hmin, hf]
    rfl
  · rw [u.placeMiss_attach k w f (by rw [hf]; rfl) hmin, hf]
    rfl
  · rw [u.placeMiss_begin k w f hk hf hmin]
    rfl
  · exact u.placeMiss_wait k w hk hbusy
  · intro s o i a d key hturn hmode horg hstate hwindow hkey hfind
    rw [exec_turn_lookup s o i a d hturn hmode horg hstate hwindow]
    obtain ⟨-, -, -, -, -, hslot⟩ := hturn
    have hkey' : a.key = key := by rw [hkey, ← horg]; rfl
    have hfind' : (pointerBehind s o).cache.find key = none := hfind
    have hstage := setStage_held (pointerBehind s o) i a d .queued .waitFetch hslot
    simp only [State.turnLookup, hkey', hfind', hstage]
    rfl

/-! ## Wakes (R51, R100, TABLE 27) -/

/-- Settles O39: the wake of a request, by how its fetch ended. -/
theorem wakeDecidesTheRequest : Obligations.WakeDecidesTheRequest := by
  intro v k i a d hslot uncounted refused
  have hrefused : ∀ c stamp, refused (v.refuse i a c stamp none none) c stamp := fun c stamp =>
    ⟨refusedWith_refuse v i a d .waitFetch c stamp hslot, by simp [BoardKept], by simp, by simp, by simp, by simp, by simp,
      by simp, by simp, by simp, by simp⟩
  have hwake : ∀ o, v.wake k o (.request i) = v.wakeRequest i o := fun _ => rfl
  simp only [hwake, State.wakeRequest, hslot]
  refine ⟨fun e desc fresh t hpass => ?_, fun e desc fresh c hfail => ?_, fun e fresh => hrefused .notPresent none,
    fun b5 => refuse_uncounted v i a d .waitFetch _ _ _ _ hslot rfl,
    fun place => refuse_uncounted v i a d .waitFetch _ _ _ _ hslot rfl,
    refuse_uncounted v i a d .waitFetch _ _ _ _ hslot rfl⟩
  · rw [State.resolveAgainst_pass _ i a e desc t hpass, setStage_held v i a d .waitFetch _ hslot]
  · rw [State.resolveAgainst_fail _ i a e desc c hfail]
    exact hrefused c (some desc.stamp)

/-- A verdict that a fetch or a lookup brought, as a PROBE reports it (TABLE 56). -/
theorem probeVerdict_eq (a : Access) (d : Descriptor) (fetched : Bool) :
    probeVerdict a d fetched = match d.evaluate a with
      | .pass t => [0, 0, BitVec.ofNat 8 t.place.target.val, t.place.addr.extractLsb' 0 8,
          t.place.addr.extractLsb' 8 8, t.place.addr.extractLsb' 16 8, if t.swap = true then 1 else 0,
          BitVec.ofNat 8 (windowNumber a.addr), d.b5, if fetched = true then 3 else 1]
      | .fail c => [1, BitVec.ofNat 8 c.code, 0, 0, 0, 0, 0, BitVec.ofNat 8 (windowNumber a.addr), d.b5,
          if fetched = true then 3 else 1] := by
  unfold probeVerdict
  cases d.evaluate a with
  | pass t =>
    simp only [probeTranslation, windowOf_val]
    cases fetched <;> rfl
  | fail c =>
    have hflags : byteOfBool true ||| (byteOfBool fetched <<< 1) = if fetched = true then 3 else 1 := by
      cases fetched <;> decide
    simp only [probeRefusal, windowOf_val, Option.isSome_some, hflags]
    rfl

/-- A refusal that needs no descriptor, as a PROBE reports it (TABLE 56). -/
theorem probeRefusal_eq (a : Access) (c : Cause) (fetched : Bool) :
    probeRefusal a c none fetched =
      [1, BitVec.ofNat 8 c.code, 0, 0, 0, 0, 0, BitVec.ofNat 8 (windowNumber a.addr), 0,
        if fetched = true then 2 else 0] := by
  have hflags : byteOfBool (none : Option Byte).isSome ||| (byteOfBool fetched <<< 1) =
      if fetched = true then 2 else 0 := by
    cases fetched <;> decide
  rw [probeRefusal, hflags, windowOf_val]
  rfl

/-- A command that waits on a fetch is told of its failure alike, whether PIN or PROBE (TABLE 54). -/
theorem wakeCommand_failed (v : State) (k : Key) (o : FetchOutcome) (layout : List Byte)
    (hphase : (∃ k', v.engine.phase = .executing (.pin k')) ∨ ∃ a, v.engine.phase = .executing (.probe a))
    (ho : o.failure? k = some layout) : v.wake k o .command = v.finish .fetchFailed layout := by
  show v.wakeCommand k o = _
  rcases hphase with ⟨k', hphase⟩ | ⟨a, hphase⟩ <;> cases o <;>
    simp_all [State.wakeCommand, FetchOutcome.failure?]

/-- Settles O40: the wake of a command, by the command and by how its fetch ended. -/
theorem wakeEndsTheWaitingCommand : Obligations.WakeEndsTheWaitingCommand := by
  intro v k done failed
  have hwake : ∀ o, v.wake k o .command = v.wakeCommand k o := fun _ => rfl
  refine ⟨fun k' hphase e fresh => ⟨fun desc => ?_, ?_⟩, fun a hphase e fresh => ⟨fun desc => ?_, ?_⟩,
    fun hphase => ⟨fun b5 => ?_, fun p => ?_, ?_⟩⟩
  · simp only [hwake, State.wakeCommand, hphase]
    rfl
  · simp only [hwake, State.wakeCommand, hphase]
    rfl
  · simp only [hwake, State.wakeCommand, hphase, probeVerdict_eq, if_true]
    cases desc.evaluate a <;> rfl
  · simp only [hwake, State.wakeCommand, hphase, probeRefusal_eq, if_true]
    rfl
  · rw [wakeCommand_failed v k _ _ hphase rfl]
    rfl
  · rw [wakeCommand_failed v k _ _ hphase rfl]
    rfl
  · rw [wakeCommand_failed v k _ _ hphase rfl]
    rfl

end Sys2Proof.Proofs
end

section
/-! PROOFS. The memory port: the start of an operation, recovery, beats, the periods of MCLK, and the ends of operations. -/

namespace Sys2Proof.Proofs

open Sys2Proof.Machine Sys2Proof.Claims

/-! ## Start and recovery (R123, R128) -/

/-- The head operation begins with the first of its beats. -/
theorem tryStart_begins (p : Port) (op : MemOp) (rest : List MemOp) (b : Beat) (bs : List Beat) (hq : p.queue = op :: rest)
    (hc : p.current = none) (hr : peek p.recovery op.place.target = 0)
    (hb : beatsOf (peek p.timing op.place.target).width op.place.addr.toNat op.length = b :: bs) :
    p.tryStart = { p with
      current := some { timing := peek p.timing op.place.target, gathered := [], beat := b, rest := bs, phase := .address }
      ma := b.ma
      mle := (if b.lane0 = true then 1 else 0) ||| (if b.lane1 = true then 2 else 0) } := by
  rw [Port.tryStart_of_ready p op rest hq hc hr, Port.start_eq p op b bs hb]
  rfl

/-- Settles O32: the start, and the periods of recovery before it. -/
theorem headStartsWhenTargetRecovered : Obligations.HeadStartsWhenTargetRecovered := by
  refine ⟨fun p op rest hq => ⟨Port.tryStart_of_held p op rest hq,
      fun hc hr b bs => tryStart_begins p op rest b bs hq hc hr⟩,
    fun s op rest b bs timing hreset hs hc hq hrec htiming hb => ?_⟩
  have hleft : s.recoveryLeft = some (peek s.port.recovery op.place.target).toNat := by
    simp only [State.recoveryLeft, hc, hq, if_neg hrec]
  have hexpire : exec .recoveryExpiry s = .next { s.elapse (peek s.port.recovery op.place.target).toNat with
      port := (s.elapse (peek s.port.recovery op.place.target).toNat).port.tryStart } := by
    show Host.Outcome.next s.settle.expireRecovery = _
    rw [s.settle_of_settled hs, State.expireRecovery, if_neg (by simp [hreset]), hleft]
  subst htiming
  rw [hexpire, State.elapse_of_none s _ hc]
  refine congrArg Host.Outcome.next ?_
  have hstart := tryStart_begins { s.port with
      recovery := Vector.ofFn fun t =>
        BitVec.ofNat 2 ((peek s.port.recovery t).toNat - (peek s.port.recovery op.place.target).toNat) }
    op rest b bs hq hc (by simp) hb
  rw [hstart]

/-! ## Beats (R126, R129) -/

theorem beatEnd_more (s : State) (pr : Progress) (op : MemOp) (rest : List MemOp) (b : Beat) (bs : List Beat)
    (hc : s.port.current = some pr) (hq : s.port.queue = op :: rest) (hb : pr.rest = b :: bs) :
    s.beatEnd = some .notLast := by
  simp [State.beatEnd, hc, hq, hb]

/-- The ending of an operation whose last beat completes. -/
def lastEnd (op : MemOp) : BeatEnd :=
  match op.body with
  | .forwardRead _ _ => .readDone
  | .forwardWrite _ _ => .writeDone
  | .tableRead _ => .tableReadDone
  | .statusWrite _ => .writeDone

theorem beatEnd_last (s : State) (pr : Progress) (op : MemOp) (rest : List MemOp) (hc : s.port.current = some pr)
    (hq : s.port.queue = op :: rest) (hb : pr.rest = []) : s.beatEnd = some (lastEnd op) := by
  unfold lastEnd
  cases hbody : op.body <;> simp [State.beatEnd, hc, hq, hb, hbody]

/-- The state after `n` periods of the operation in progress on target `t` (R128). -/
def elapsed (s : State) (t : Target) (n : Nat) : State :=
  { s with
    port := { s.port with
      recovery := Vector.ofFn fun t' =>
        if t' = t then peek s.port.recovery t' else BitVec.ofNat 2 ((peek s.port.recovery t').toNat - n) } }

theorem elapse_eq_elapsed (s : State) (n : Nat) (pr : Progress) (op : MemOp) (rest : List MemOp)
    (hc : s.port.current = some pr) (hq : s.port.queue = op :: rest) : s.elapse n = elapsed s op.place.target n :=
  s.elapse_of_some n pr op rest hc hq

/-- A beat row on the beat under way. -/
theorem completeBeat_elapsed (s : State) (pr : Progress) (op : MemOp) (rest : List MemOp) (want : BeatEnd) (x n : Nat)
    (hreset : s.resetActive = false) (hc : s.port.current = some pr) (hq : s.port.queue = op :: rest)
    (hend : s.beatEnd = some want) (hn : pr.periodsToEnd x = some n) :
    s.completeBeat want x = (elapsed s op.place.target n).finishBeat := by
  rw [s.completeBeat_eq want x n hreset hend ((s.periodsToEnd_eq pr x hc).trans hn), elapse_eq_elapsed s n pr op rest hc hq]

theorem gathered_of_read (op : MemOp) (pr : Progress) (s : State) (h : op.isWrite = false) :
    op.gathered pr s.mem = pr.gathered ++ beatBytes s op pr.beat := by
  rw [MemOp.gathered, if_neg (by simp [h])]
  rfl

theorem memAfter_of_read (op : MemOp) (pr : Progress) (m : List Host.Cell) (h : op.isWrite = false) :
    op.memAfter pr m = m := by
  rw [MemOp.memAfter, if_neg (by simp [h])]

/-- The bytes of memory after a write beat. -/
theorem beatWritten_memAfter (s u : State) (op : MemOp) (pr : Progress) (h : op.isWrite = true)
    (hu : u.mem = op.memAfter pr s.mem) : BeatWritten s u op pr.beat := by
  intro hm p
  rw [State.byteOf, hu, MemOp.memAfter, if_pos h, MemOp.read_writeBeat op pr.beat s.mem p.target p.addr hm]
  rfl

/-- Settles O33. -/
theorem beatCompleteBeginsNextBeat : Obligations.BeatCompleteBeginsNextBeat := by
  intro s pr op rest b bs x n hreset hs hc hq hb hn
  have hexec : exec (.beatComplete x) s = .next (elapsed s op.place.target n).finishBeat := by
    show Host.Outcome.next (s.settle.completeBeat .notLast x) = _
    rw [s.settle_of_settled hs,
      completeBeat_elapsed s pr op rest .notLast x n hreset hc hq (beatEnd_more s pr op rest b bs hc hq hb) hn]
  have hnext := State.finishBeat_of_more (elapsed s op.place.target n) pr op rest b bs hc hq hb
  refine ⟨_, hexec.trans (congrArg Host.Outcome.next hnext), ⟨rfl, rfl, rfl, rfl, rfl, rfl⟩, rfl,
    fun hw => beatWritten_memAfter s _ op pr hw rfl, fun hr => memAfter_of_read op pr s.mem hr, rfl, rfl, rfl, rfl, rfl, rfl⟩

/-! ## One period of MCLK (R126 to R128; log 2) -/

theorem step_empty (s : State) (h : s.pending = []) (hs : s.Settled) : step s = .next s.period := by
  simp only [step, h, State.tick]
  rw [s.settle_of_settled hs]

theorem period_of_none (s : State) (hreset : s.resetActive = false) (hc : s.port.current = none) :
    s.period = { s.elapse 1 with port := (s.elapse 1).port.tryStart } := by
  rw [State.period, if_neg (by simp [hreset])]
  simp only [hc]

theorem period_of_some (s : State) (pr : Progress) (hreset : s.resetActive = false) (hc : s.port.current = some pr) :
    s.period = (s.elapse 1).endPeriod pr := by
  rw [State.period, if_neg (by simp [hreset])]
  simp only [hc]

/-- In its strobe period a beat ends with the period, as its row with no more extend periods says. -/
theorem completeBeat_strobe (s : State) (pr : Progress) (op : MemOp) (rest : List MemOp) (want : BeatEnd)
    (hreset : s.resetActive = false) (hc : s.port.current = some pr) (hq : s.port.queue = op :: rest)
    (hphase : pr.phase = .strobe) (hend : s.beatEnd = some want) : s.completeBeat want 0 = s.period := by
  have hone : pr.periodsToEnd 0 = some 1 := by simp only [Progress.periodsToEnd, hphase, if_true]
  rw [completeBeat_elapsed s pr op rest want 0 1 hreset hc hq hend hone, period_of_some s pr hreset hc,
    elapse_eq_elapsed s 1 pr op rest hc hq]
  simp only [State.endPeriod, hphase]

/-- Settles O2: with nothing in progress, and by the period of the beat under way. -/
theorem emptyQueueStepIsOnePeriod : Obligations.EmptyQueueStepIsOnePeriod := by
  intro s hpending hreset hs lowered
  have hidle : s.port.current = none → step s = .next { s with port := Port.tryStart { s.port with recovery := lowered } } :=
    fun hc => by rw [step_empty s hpending hs, period_of_none s hreset hc, State.elapse_of_none s 1 hc]
  refine ⟨fun op rest hc hq => ⟨fun hrec => ?_, fun hrec b bs hb => ?_⟩, fun hc hq => ?_, fun pr op rest hc hq => ?_⟩
  · rw [hidle hc, Port.tryStart_of_held { s.port with recovery := lowered } op rest hq (.inr hrec)]
  · rw [hidle hc, tryStart_begins { s.port with recovery := lowered } op rest b bs hq hc hrec hb]
  · rw [hidle hc, Port.tryStart_of_empty { s.port with recovery := lowered } hq]
  · intro others
    have hothers : others = Vector.ofFn fun t' =>
        if t' = op.place.target then peek s.port.recovery t' else BitVec.ofNat 2 ((peek s.port.recovery t').toNat - 1) := by
      simp only [others, lowered, peek_ofFn]
    have hstep : step s = .next ((elapsed s op.place.target 1).endPeriod pr) := by
      rw [step_empty s hpending hs, period_of_some s pr hreset hc, elapse_eq_elapsed s 1 pr op rest hc hq]
    rw [hothers]
    refine ⟨fun hphase hwait => ?_, fun left hleft hphase => ?_, fun hphase hmore => ?_, fun hphase hlast => ?_⟩
    · rw [hstep]
      simp only [State.endPeriod, hphase, if_neg hwait]
      rfl
    · rw [hstep]
      simp only [State.endPeriod, hphase, if_neg (show ¬ left ≤ 1 by omega)]
      rfl
    · obtain ⟨b, bs, hb⟩ := List.exists_cons_of_ne_nil hmore
      rw [step_empty s hpending hs]
      show _ = Host.Outcome.next (s.settle.completeBeat .notLast 0)
      rw [s.settle_of_settled hs,
        completeBeat_strobe s pr op rest .notLast hreset hc hq hphase (beatEnd_more s pr op rest b bs hc hq hb)]
    · have hend := beatEnd_last s pr op rest hc hq hlast
      have hexec : ∀ c : Instr, exec c s = .next (s.settle.completeBeat (lastEnd op) 0) → step s = exec c s := by
        intro c hexec
        rw [hexec, step_empty s hpending hs, s.settle_of_settled hs,
          completeBeat_strobe s pr op rest (lastEnd op) hreset hc hq hphase hend]
      cases hbody : op.body <;> exact hexec _ (by simp only [lastEnd, hbody]; rfl)

end Sys2Proof.Proofs
end

section
/-! PROOFS. The ends of memory operations, and the memory release. -/

namespace Sys2Proof.Proofs

open Sys2Proof.Machine Sys2Proof.Claims

/-! ## The end of the operation in progress (R127 to R129) -/

/-- The head operation has left the queue after `n` periods, its target recovers, and memory is `m` (R128, R129). -/
def operationLeft (s : State) (pr : Progress) (op : MemOp) (rest : List MemOp) (n : Nat) (m : List Host.Cell) : State :=
  { s with
    mem := m
    port := { s.port with
      queue := rest, current := none, recovery := recoveryAfter s.port op.place.target pr.timing n } }

theorem elapsed_leave (s : State) (pr : Progress) (op : MemOp) (rest : List MemOp) (n : Nat) :
    (elapsed s op.place.target n).port.leave pr op rest =
      { s.port with queue := rest, current := none, recovery := recoveryAfter s.port op.place.target pr.timing n } := by
  have hrecovery : poke (elapsed s op.place.target n).port.recovery op.place.target pr.timing.recovery =
      recoveryAfter s.port op.place.target pr.timing n := by
    apply row_ext
    intro t
    simp only [peek_poke, recoveryAfter, elapsed, peek_ofFn]
    by_cases h : t = op.place.target
    · rw [if_pos h.symm, if_pos h]
    · rw [if_neg (Ne.symm h), if_neg h, if_neg h]
  simp only [Port.leave, hrecovery]
  rfl

/-- The row that completes the operation in progress hands it over. -/
theorem exec_completes (s : State) (pr : Progress) (op : MemOp) (rest : List MemOp) (x n : Nat) (c : Instr)
    (h : LastBeat s pr op rest x n) (hc : exec c s = .next (s.settle.completeBeat (lastEnd op) x)) :
    exec c s = .next (((operationLeft s pr op rest n (op.memAfter pr s.mem)).handOver op
      (op.gathered pr s.mem)).afterOperation) := by
  obtain ⟨hreset, hs, hcurrent, hqueue, hlast, hn⟩ := h
  rw [hc, s.settle_of_settled hs, completeBeat_elapsed s pr op rest _ x n hreset hcurrent hqueue
    (beatEnd_last s pr op rest hcurrent hqueue hlast) hn,
    State.finishBeat_of_last (elapsed s op.place.target n) pr op rest hcurrent hqueue hlast, elapsed_leave]
  rfl

/-- EXTEND_LIMIT_EXPIRY hands the failure of the operation in progress over, and memory stays. -/
theorem exec_abandons (s : State) (pr : Progress) (op : MemOp) (rest : List MemOp) (n : Nat)
    (h : Abandons s pr op rest n) :
    exec .extendLimitExpiry s = .next ((operationLeft s pr op rest n s.mem).handFailure op).afterOperation := by
  obtain ⟨hreset, hs, hcurrent, hqueue, hn⟩ := h
  have hbind : s.port.current.bind Progress.periodsToAbandon = some n := by rw [hcurrent]; exact hn
  show Host.Outcome.next s.settle.expireExtend = _
  rw [s.settle_of_settled hs, State.expireExtend, if_neg (by simp [hreset]), hbind]
  simp only
  rw [elapse_eq_elapsed s n pr op rest hcurrent hqueue,
    State.abandonBeat_eq (elapsed s op.place.target n) pr op rest hcurrent hqueue, elapsed_leave]
  rfl

/-! ## What is handed over (R129 to R133) -/

theorem isWrite_of_forwardRead (op : MemOp) (a : Access) (i : SlotIx) (h : op.body = .forwardRead a i) :
    op.isWrite = false := by
  simp only [MemOp.isWrite, h]

theorem isWrite_of_tableRead (op : MemOp) (f : FetchIx) (h : op.body = .tableRead f) : op.isWrite = false := by
  simp only [MemOp.isWrite, h]

theorem handOver_write (s : State) (op : MemOp) (bytes : List Byte) (h : op.isWrite = true) : s.handOver op bytes = s := by
  cases hbody : op.body <;> simp [MemOp.isWrite, hbody] at h <;> simp only [State.handOver, hbody]

theorem exec_writeCompletes (s : State) (pr : Progress) (op : MemOp) (rest : List MemOp) (x n : Nat)
    (h : LastBeat s pr op rest x n) (hw : op.isWrite = true) :
    exec (.writeOperationComplete x) s =
      .next (operationLeft s pr op rest n (op.memAfter pr s.mem)).afterOperation := by
  have hend : lastEnd op = .writeDone := by
    cases hbody : op.body <;> simp [MemOp.isWrite, hbody] at hw <;> simp only [lastEnd, hbody]
  rw [exec_completes s pr op rest x n (.writeOperationComplete x) h (by rw [hend]; rfl), handOver_write _ _ _ hw]

/-- A FORWARD_READ answers its slot. -/
theorem handOver_forwardRead (s : State) (op : MemOp) (bytes : List Byte) (a a' : Access) (i : SlotIx) (d : Option Data)
    (t : Translation) (hbody : op.body = .forwardRead a i) (hslot : s.slot i = .held a' d (.issued t)) :
    s.handOver op bytes = { s with intake := { s.intake with
      slots := poke s.intake.slots i (.held a' d (.answerReady (some t) (.done (some (assemble t.swap bytes))))) } } := by
  simp only [State.handOver, hbody, State.answerRead, hslot]
  exact setStage_held s i a' d (.issued t) _ hslot

theorem exec_forwardReadCompletes (s : State) (pr : Progress) (op : MemOp) (rest : List MemOp) (x n : Nat) (a a' : Access)
    (i : SlotIx) (d : Option Data) (t : Translation) (h : LastBeat s pr op rest x n)
    (hbody : op.body = .forwardRead a i) (hslot : s.slot i = .held a' d (.issued t)) :
    exec (.forwardReadComplete x) s =
      .next (State.afterOperation { operationLeft s pr op rest n s.mem with
        intake := { s.intake with
          slots := poke s.intake.slots i (.held a' d (.answerReady (some t) (.done (some
            (assemble t.swap (pr.gathered ++ beatBytes s op pr.beat)))))) } }) := by
  have hread := isWrite_of_forwardRead op a i hbody
  rw [exec_completes s pr op rest x n (.forwardReadComplete x) h (by simp only [lastEnd, hbody]; rfl),
    handOver_forwardRead (operationLeft s pr op rest n _) op _ a a' i d t hbody hslot, gathered_of_read op pr s hread,
    memAfter_of_read op pr s.mem hread]
  rfl

/-- A failed FORWARD_READ refuses its slot. -/
theorem handFailure_forwardRead (s : State) (op : MemOp) (a a' : Access) (i : SlotIx) (d : Option Data)
    (t : Translation) (hbody : op.body = .forwardRead a i) (hslot : s.slot i = .held a' d (.issued t)) :
    s.handFailure op = { s with
      log := s.log.offer (operationRecord .targetTimeout a op.key op.place)
      intake := { s.intake with
        slots := poke s.intake.slots i (.held a' d (.answerReady (some t) (.refused .targetTimeout))) } } := by
  have hslot' : (s.offer (operationRecord .targetTimeout a op.key op.place)).slot i = .held a' d (.issued t) := hslot
  simp only [State.handFailure, hbody, State.timeoutRead, hslot']
  exact setStage_held _ i a' d (.issued t) _ hslot'

theorem handFailure_forwardWrite (s : State) (op : MemOp) (a : Access) (bytes : List Byte)
    (hbody : op.body = .forwardWrite a bytes) :
    s.handFailure op = { s with log := s.log.offer (operationRecord .postedWriteLost a op.key op.place) } := by
  simp only [State.handFailure, hbody]
  rfl

theorem handFailure_statusWrite (s : State) (op : MemOp) (v : Byte) (hbody : op.body = .statusWrite v) :
    s.handFailure op = { s with log := s.log.offer (writebackRecord op.key op.place) } := by
  simp only [State.handFailure, hbody]
  rfl

/-- Settles O34: the handoff outside RESET_MEMORY, behind which the next operation starts when it can. -/
theorem forwardedOperationCompletes : Obligations.ForwardedOperationCompletes := by
  refine ⟨fun s pr op rest x n a a' i d t h hseq hbody hslot => ?_, fun s pr op rest x n h hseq hw => ?_⟩
  · rw [exec_forwardReadCompletes s pr op rest x n a a' i d t h hbody hslot, State.afterOperation_of_run]
    · exact ⟨_, rfl, ⟨rfl, rfl, rfl, rfl, rfl, rfl⟩, rfl, rfl, rfl, rfl, rfl, rfl, rfl, rfl⟩
    · exact hseq
  · rw [exec_writeCompletes s pr op rest x n h hw, State.afterOperation_of_run]
    · exact ⟨_, rfl, ⟨rfl, rfl, rfl, rfl, rfl, rfl⟩, rfl, beatWritten_memAfter s _ op pr hw rfl, rfl, rfl, rfl, rfl, rfl,
        rfl⟩
    · exact hseq

/-- Settles O35: the failure by the kind of the operation. -/
theorem extendLimitFailsOperation : Obligations.ExtendLimitFailsOperation := by
  intro s pr op rest n h hseq
  rw [exec_abandons s pr op rest n h]
  refine ⟨fun a i a' d t hbody hslot => ?_, fun a bytes hbody => ?_, fun v hbody => ?_⟩
  · rw [handFailure_forwardRead (operationLeft s pr op rest n s.mem) op a a' i d t hbody hslot, State.afterOperation_of_run]
    · exact ⟨_, rfl, ⟨⟨rfl, rfl, rfl, rfl, rfl, rfl⟩, rfl, rfl, rfl, rfl, rfl, rfl⟩, rfl, rfl⟩
    · exact hseq
  · rw [handFailure_forwardWrite _ op a bytes hbody, State.afterOperation_of_run]
    · exact ⟨_, rfl, ⟨⟨rfl, rfl, rfl, rfl, rfl, rfl⟩, rfl, rfl, rfl, rfl, rfl, rfl⟩, rfl, rfl⟩
    · exact hseq
  · rw [handFailure_statusWrite _ op v hbody, State.afterOperation_of_run]
    · exact ⟨_, rfl, ⟨⟨rfl, rfl, rfl, rfl, rfl, rfl⟩, rfl, rfl, rfl, rfl, rfl, rfl⟩, rfl, rfl⟩
    · exact hseq

/-! ## The memory release (R61, R137, R162 to R164) -/

theorem refuseReset_eq (x : Slot) : x.refuseReset = releasedSlot x := by
  rcases x with _ | ⟨a, d, st⟩
  · rfl
  · cases st <;> rfl

theorem releaseStart_slot_eq (s : State) (i : SlotIx) : s.releaseStart.slot i = releasedSlot (s.slot i) := by
  rw [State.releaseStart_slot, refuseReset_eq]

/-- A state in which the memory release comes: that of `s` but for the slots, what is left of the queue, the fetch unit,
the log, the engine, memory and the sequence. -/
def releasing (s : State) (slots : Vector Slot 8) (ops : List MemOp) (recovery : Vector (BitVec 2) 4) (f : FetchUnit)
    (l : FaultLog) (e : Engine) (m : List Host.Cell) (q : Sequence) : State :=
  { s with
    intake := { s.intake with slots := slots }
    port := { s.port with queue := ops, current := none, recovery := recovery }
    fetch := f, log := l, engine := e, mem := m, sequence := q }

section
variable (s : State) (slots : Vector Slot 8) (ops : List MemOp) (recovery : Vector (BitVec 2) 4) (f : FetchUnit)
  (l : FaultLog) (e : Engine) (m : List Host.Cell) (q : Sequence)

/-- The memory release with a slot held: RESET_ANSWER begins. -/
theorem memoryRelease_releases (hheld : ∃ i, peek slots i ≠ .free) :
    let u := (releasing s slots ops recovery f l e m q).memoryRelease
    Released s u (peek slots) ops ∧ u.log = l ∧ u.engine = e ∧ u.port.recovery = recovery ∧ u.mem = m := by
  intro u
  have hu : u = (releasing s slots ops recovery f l e m q).releaseStart := State.memoryRelease_of_held _ hheld
  rw [hu]
  exact ⟨⟨rfl, rfl, rfl, rfl, rfl, rfl, rfl, rfl, rfl, releaseStart_slot_eq _, rfl, rfl, rfl, rfl, rfl, rfl, rfl, rfl, rfl,
    rfl, rfl⟩, rfl, rfl, rfl, rfl⟩

/-- The memory release with an empty intake: SOFT_RESET completes in the same step. -/
theorem memoryRelease_completes (hfree : ∀ i, peek slots i = .free) (hs : ∀ i, s.slot i = .free)
    (hmask : l.mask = s.log.mask) :
    let u := (releasing s slots ops recovery f l e m q).memoryRelease
    ResetCompleted s u (postedWrites ops) ∧ u.engine = { e with phase := .complete .ok (Vector.replicate 24 0) } ∧
      u.port.recovery = recovery ∧ u.mem = m := by
  intro u
  have hu : u = (releasing s slots ops recovery f l e m q).releaseStart.resetClear :=
    State.memoryRelease_of_empty _ hfree
  have hslots : everyPlace Slot.refuseReset slots = s.intake.slots := by
    apply row_ext
    intro i
    rw [peek_everyPlace, hfree i]
    exact (hs i).symm
  have hintake : u.intake = { s.intake with turnPtr := 0, responsePtr := 0 } := by
    rw [hu]
    show ({ s.intake with slots := everyPlace Slot.refuseReset slots, turnPtr := 0, responsePtr := 0 } : Intake) = _
    rw [hslots]
  have hlog : u.log = resetDoneLog s.log (postedWrites ops) := by
    rw [hu, resetDoneLog, ← hmask]
    rfl
  have hengine : u.engine = { e with phase := .complete .ok (Vector.replicate 24 0) } := by
    rw [hu, ← resultBytes_nil]
    rfl
  have hrest : u.mode = .boot ∧ u.sequence = .none ∧ u.contexts = offContexts ∧ u.cache = emptyCache ∧
      u.fetch = emptyFetch ∧ u.port = { s.port with
        queue := [], current := none, recovery := recovery, discards := 0, forwardPtr := 0 } ∧
      u.resetActive = s.resetActive ∧ u.waiting = s.waiting ∧ u.freeCount = s.freeCount ∧ u.pending = s.pending ∧
      u.mem = m := by
    rw [hu]
    exact ⟨rfl, rfl, rfl, rfl, rfl, rfl, rfl, rfl, rfl, rfl, rfl⟩
  obtain ⟨hmode, hseq, hcontexts, hcache, hfetch, hport, hreset, hwaiting, hcount, hpending, hmem⟩ := hrest
  refine ⟨⟨hmode, hseq, hcontexts, hcache, hfetch, hintake, ?_, ?_, ?_, ?_, ?_, ?_, ?_, hlog, hreset, hwaiting, hcount,
    hpending⟩, hengine, ?_, hmem⟩ <;> rw [hport]

/-- The end of the operation in progress in RESET_MEMORY is the memory release, and with an empty intake the completion. -/
theorem releaseFollows_afterOperation (hq : q = .resetMemory) (hs : (∀ i, peek slots i = .free) → ∀ i, s.slot i = .free)
    (hmask : l.mask = s.log.mask) :
    let u := (releasing s slots ops recovery f l s.engine m q).afterOperation
    u.port.recovery = recovery ∧ u.mem = m ∧ ReleaseFollows s u (peek slots) ops l := by
  intro u
  have hu : u = (releasing s slots ops recovery f l s.engine m q).memoryRelease := State.afterOperation_of_release _ hq
  rw [hu]
  by_cases hheld : ∃ i, peek slots i ≠ .free
  · obtain ⟨hreleased, hlog, hengine, hrecovery, hmem⟩ := memoryRelease_releases s slots ops recovery f l s.engine m q hheld
    obtain ⟨i, hi⟩ := hheld
    exact ⟨hrecovery, hmem, fun _ => ⟨hreleased, hlog, hengine⟩, fun hfree => absurd (hfree i) hi⟩
  · have hfree : ∀ i, peek slots i = .free := fun i => not_not.mp fun hi => hheld ⟨i, hi⟩
    obtain ⟨hcompleted, hengine, hrecovery, hmem⟩ :=
      memoryRelease_completes s slots ops recovery f l s.engine m q hfree (hs hfree) hmask
    exact ⟨hrecovery, hmem, fun hh => absurd hh hheld, fun _ => ⟨hcompleted, hengine⟩⟩

end

/-- After the acceptance of SOFT_RESET a table read ends without effect outside the fetch unit (R103). -/
theorem fetchCompleted_inReset (s : State) (f : FetchIx) (bytes : List Byte) (h : s.sequence.inReset = true) :
    ∃ u, s.fetchCompleted f bytes = { s with fetch := u } := by
  unfold State.fetchCompleted
  split
  · rw [if_pos h]
    exact ⟨_, rfl⟩
  · exact ⟨s.fetch, rfl⟩

theorem fetchFailed_inReset (s : State) (f : FetchIx) (h : s.sequence.inReset = true) :
    ∃ u, s.fetchFailed f = { s with fetch := u } := by
  unfold State.fetchFailed
  split
  · rw [if_pos h]
    exact ⟨_, rfl⟩
  · exact ⟨s.fetch, rfl⟩

/-- The slots when one has been answered. -/
theorem peek_answered (s : State) (i : SlotIx) (x : Slot) :
    peek (poke s.intake.slots i x) = fun j => if j = i then x else s.slot j := by
  funext j
  rw [peek_poke]
  by_cases h : i = j
  · rw [if_pos h, if_pos h.symm]
  · rw [if_neg h, if_neg (Ne.symm h)]
    rfl

/-- Settles O36: every end of an operation comes to the memory release. -/
theorem memoryReleaseDiscardsAndRefuses : Obligations.MemoryReleaseDiscardsAndRefuses := by
  intro s pr op rest x n hseq recovers answered lost
  have hin : s.sequence.inReset = true := by rw [hseq]; rfl
  have hanswered : ∀ i a d st, (∀ j, peek (poke s.intake.slots i (.held a d st)) j = .free) → ∀ j, s.slot j = .free :=
    fun i a d st hfree => by simpa using hfree i
  have hfollows := fun slots f l m => releaseFollows_afterOperation s slots rest
    (recoveryAfter s.port op.place.target pr.timing n) f l m s.sequence hseq
  refine ⟨fun h => ⟨fun hw => ?_, fun f hbody => ?_, fun a i a' d t hbody hslot => ?_⟩,
    fun h => ⟨fun a i a' d t hbody hslot => ?_, fun a bytes hbody => ?_, fun v hbody => ?_, fun f hbody => ?_⟩⟩
  · obtain ⟨hrecovery, hmem, hrelease⟩ := hfollows s.intake.slots s.fetch s.log (op.memAfter pr s.mem) id rfl
    exact ⟨_, exec_writeCompletes s pr op rest x n h hw, hrecovery, hrelease, beatWritten_memAfter s _ op pr hw hmem⟩
  · have hread := isWrite_of_tableRead op f hbody
    obtain ⟨u, hu⟩ := fetchCompleted_inReset (operationLeft s pr op rest n s.mem) f (op.gathered pr s.mem) hin
    obtain ⟨hrecovery, hmem, hrelease⟩ := hfollows s.intake.slots u s.log s.mem id rfl
    refine ⟨_, exec_completes s pr op rest x n (.tableReadComplete x) h (by simp only [lastEnd, hbody]; rfl), ?_⟩
    rw [memAfter_of_read op pr s.mem hread]
    simp only [State.handOver, hbody, hu]
    exact ⟨hrecovery, hrelease, hmem⟩
  · obtain ⟨hrecovery, hmem, hrelease⟩ := hfollows (poke s.intake.slots i _) s.fetch s.log s.mem (hanswered i a' d _) rfl
    rw [peek_answered] at hrelease
    exact ⟨_, exec_forwardReadCompletes s pr op rest x n a a' i d t h hbody hslot, hrecovery, hmem, hrelease⟩
  · obtain ⟨hrecovery, hmem, hrelease⟩ := hfollows (poke s.intake.slots i _) s.fetch
      (s.log.offer (lost .targetTimeout a)) s.mem (hanswered i a' d _) (FaultLog.offer_mask _ _)
    rw [peek_answered] at hrelease
    rw [exec_abandons s pr op rest n h,
      handFailure_forwardRead (operationLeft s pr op rest n s.mem) op a a' i d t hbody hslot]
    exact ⟨_, rfl, hrecovery, hmem, hrelease⟩
  · obtain ⟨hrecovery, hmem, hrelease⟩ := hfollows s.intake.slots s.fetch (s.log.offer (lost .postedWriteLost a)) s.mem id
      (FaultLog.offer_mask _ _)
    rw [exec_abandons s pr op rest n h, handFailure_forwardWrite _ op a bytes hbody]
    exact ⟨_, rfl, hrecovery, hmem, hrelease⟩
  · obtain ⟨hrecovery, hmem, hrelease⟩ := hfollows s.intake.slots s.fetch (s.log.offer (writebackRecord op.key op.place))
      s.mem id (FaultLog.offer_mask _ _)
    rw [exec_abandons s pr op rest n h, handFailure_statusWrite _ op v hbody]
    exact ⟨_, rfl, hrecovery, hmem, hrelease⟩
  · obtain ⟨u, hu⟩ := fetchFailed_inReset (operationLeft s pr op rest n s.mem) f hin
    obtain ⟨hrecovery, hmem, hrelease⟩ := hfollows s.intake.slots u s.log s.mem id rfl
    rw [exec_abandons s pr op rest n h]
    simp only [State.handFailure, hbody, hu]
    exact ⟨_, rfl, hrecovery, hmem, hrelease⟩

/-- Settles O59: the acceptance with an operation in progress, and the memory release without one. -/
theorem softResetWaitsOrReleases : Obligations.SoftResetWaitsOrReleases := by
  intro s args h
  have hexec : exec (.softReset args) s = .next (s.receive 0x3F).runSoftReset :=
    frame_runs s 0x3F 0 args State.runSoftReset h (Nat.zero_le _)
  have hrelease : s.port.current = none → (s.receive 0x3F).runSoftReset =
      (releasing s s.intake.slots s.port.queue s.port.recovery s.fetch.withdraw s.log (held s .softReset) s.mem
        .resetMemory).memoryRelease := fun hc => by
    rw [State.runSoftReset, State.receive_port, if_pos hc, releasing, ← hc]
    rfl
  rw [hexec]
  refine ⟨fun hc => ?_, fun hc hheld => ?_, fun hc hfree => ?_⟩
  · rw [State.runSoftReset, State.receive_port, if_neg hc]
    rfl
  · obtain ⟨hreleased, hlog, hengine, hrecovery, hmem⟩ := memoryRelease_releases s s.intake.slots s.port.queue
      s.port.recovery s.fetch.withdraw s.log (held s .softReset) s.mem .resetMemory hheld
    rw [hrelease hc]
    exact ⟨_, rfl, hreleased, hrecovery, hengine, hlog, hmem⟩
  · obtain ⟨hcompleted, hengine, hrecovery, hmem⟩ := memoryRelease_completes s s.intake.slots s.port.queue
      s.port.recovery s.fetch.withdraw s.log (held s .softReset) s.mem .resetMemory hfree hfree rfl
    rw [hrelease hc]
    refine ⟨_, rfl, hcompleted, hrecovery, hengine.trans ?_, hmem⟩
    rw [← resultBytes_nil]
    rfl

end Sys2Proof.Proofs
end

section
/-! PROOFS. Entry to the memory queue: the arbiter, and the entries of a read, a table read and a status write. -/

namespace Sys2Proof.Proofs

open Sys2Proof.Machine Sys2Proof.Claims

/-! ## What is offered (R43, R53, R110, R113, R119) -/

theorem forwardsQueued_eq (s : State) (o : Originator) : forwardsQueued s o = s.port.forwardedOf o := by
  rw [forwardsQueued, Port.forwardedOf, List.countP_eq_length_filter]
  congr 2
  funext op
  cases hbody : op.body <;> simp [MemOp.forwardOrg?, hbody]

theorem Offers_iff (s : State) (o : Originator) (i : SlotIx) : Offers s o i ↔ s.forwardOffer o = some i := by
  rw [State.forwardOffer_eq_some]
  simp only [Offers, forwardsQueued_eq]

theorem forwardOffer_isSome_eq_false (s : State) (o : Originator) (h : ∀ j, ¬ Offers s o j) :
    (s.forwardOffer o).isSome = false := by
  cases hj : s.forwardOffer o with
  | none => rfl
  | some j => exact absurd ((Offers_iff s o j).mpr hj) (h j)

theorem queuedFor_iff (p : Key → Bool) (x : FetchSlot) :
    x.queuedFor p = true ↔ ∃ k ws ov n place, x = .reading k ws ov n (.queued place) ∧ p k = true := by
  unfold FetchSlot.queuedFor
  split
  case h_1 k ws ov n place =>
    constructor
    · intro h
      exact ⟨k, ws, ov, n, place, rfl, h⟩
    · rintro ⟨k', ws', ov', n', place', heq, h⟩
      cases heq
      exact h
  case h_2 hother =>
    simp only [Bool.false_eq_true, false_iff]
    rintro ⟨k, ws, ov, n, place, heq, -⟩
    exact hother k ws ov n place heq

theorem readQueuedFor_iff (u : FetchUnit) (p : Key → Bool) :
    u.readQueuedFor p = true ↔ ∃ f k ws ov n place, u.slot f = .reading k ws ov n (.queued place) ∧ p k = true := by
  rw [FetchUnit.readQueuedFor, List.any_eq_true]
  constructor
  · rintro ⟨f, -, hf⟩
    exact ⟨f, (queuedFor_iff p _).mp hf⟩
  · rintro ⟨f, hf⟩
    exact ⟨f, mem_allFetchSlots f, (queuedFor_iff p _).mpr hf⟩

theorem sharer_iff (s : State) (k k' : Key) :
    s.sharer k k' = true ↔ k' ≠ k ∧ (s.context k'.org).tableTarget = (s.context k.org).tableTarget ∧
      BitVec.ofNat 24 ((s.context k'.org).tableBase.toNat * 512 + 8 * k'.win.val) =
        BitVec.ofNat 24 ((s.context k.org).tableBase.toNat * 512 + 8 * k.win.val) := by
  rw [State.sharer, Bool.and_eq_true, decide_eq_true_eq, decide_eq_true_eq]
  exact and_congr_right fun _ => Place.mk.injEq .. ▸ Iff.rfl

theorem deferred_iff (s : State) (e : EntryIx) (k : Key) (p : Bool) (d : Descriptor) (st : Byte) (m : Marks)
    (he : s.cache.entry e = .valid k p d st m) :
    s.deferred e = true ↔
      ∃ f k' ws ov n place, s.fetch.slot f = .reading k' ws ov n (.queued place) ∧ s.sharer k k' = true := by
  simp only [State.deferred, he]
  exact readQueuedFor_iff s.fetch (s.sharer k)

theorem statusOffer_of_split (s : State) (before after : List EntryIx) (e : EntryIx)
    (h : s.cache.asking = before ++ e :: after) (he : s.deferred e = false) (hbefore : ∀ e' ∈ before, s.deferred e' = true) :
    s.statusOffer = some e := by
  rw [State.statusOffer, List.find?_eq_some_iff_append]
  exact ⟨by simp [he], before, after, h, fun e' h' => by simp [hbefore e' h']⟩

theorem statusOffer_eq_none (s : State) (h : ∀ e ∈ s.cache.asking, s.deferred e = true) : s.statusOffer = none := by
  rw [State.statusOffer, List.find?_eq_none]
  intro e he
  simp [h e he]

/-! ## What is granted (R120) -/

theorem grant_of_closed (s : State) (h : s.resetActive = true ∨ s.sequence.inReset = true ∨ 8 ≤ s.port.queue.length) :
    s.grant = none := by
  rw [State.grant, if_neg]
  rintro ⟨hopen, hroom⟩
  obtain ⟨hreset, hseq⟩ := (isOpen_iff s).mp hopen
  rcases h with h | h | h
  · rw [hreset] at h; cases h
  · rw [hseq] at h; cases h
  · exact absurd hroom (Nat.not_lt.mpr h)

section
variable (s : State) (hreset : s.resetActive = false) (hseq : s.sequence.inReset = false) (hroom : s.port.queue.length < 8)
include hreset hseq hroom

theorem grant_of_asking (f : FetchIx) (tail : List FetchIx) (h : s.fetch.asks = f :: tail) :
    s.grant = some (.tableRead f) := by
  rw [State.grant, if_pos ⟨(isOpen_iff s).mpr ⟨hreset, hseq⟩, hroom⟩, h]
  rfl

theorem grant_of_statusOffer (e : EntryIx) (h : s.fetch.asks = []) (he : s.statusOffer = some e) :
    s.grant = some (.statusWrite e) := by
  rw [State.grant, if_pos ⟨(isOpen_iff s).mpr ⟨hreset, hseq⟩, hroom⟩, h, he]
  rfl

theorem grant_of_noOther (h : s.fetch.asks = []) (he : s.statusOffer = none) : s.grant = s.forwardGrant := by
  rw [State.grant, if_pos ⟨(isOpen_iff s).mpr ⟨hreset, hseq⟩, hroom⟩, h, he]
  rfl

end

theorem forwardGrant_of_offers (s : State) (o : Originator) (i : SlotIx) (k : Fin 4) (ho : o = s.port.forwardPtr + k)
    (hoffer : Offers s o i) (hbefore : ∀ k' < k, ∀ j, ¬ Offers s (s.port.forwardPtr + k') j) :
    s.forwardGrant = some (.forward o i) := by
  have hoffer' := (Offers_iff s o i).mp hoffer
  have hfirst : roundRobin s.port.forwardPtr (fun o => (s.forwardOffer o).isSome) = some o :=
    (roundRobin_eq_some _ _ _).mpr ⟨by rw [hoffer']; rfl, k, ho, fun k' hk' =>
      forwardOffer_isSome_eq_false s _ (hbefore k' hk')⟩
  simp only [State.forwardGrant, hfirst, hoffer', Option.map_some]

theorem forwardGrant_eq_none (s : State) (h : ∀ o i, ¬ Offers s o i) : s.forwardGrant = none := by
  rw [State.forwardGrant, (roundRobin_eq_none _ _).mpr fun o => forwardOffer_isSome_eq_false s o (h o)]

/-! ## The rows (R91, R111, R121) -/

theorem exec_tableReadEntry (s : State) (h : s.Settled) :
    exec .tableReadEntry s = .next (match s.grant with
      | some (.tableRead i) => s.enterTableRead i
      | _ => s) := by
  show Host.Outcome.next (match s.settle.grant with
    | some (.tableRead i) => s.settle.enterTableRead i
    | _ => s.settle) = _
  rw [s.settle_of_settled h]

theorem exec_statusWriteEntry (s : State) (h : s.Settled) :
    exec .statusWriteEntry s = .next (match s.grant with
      | some (.statusWrite e) => s.enterStatusWrite e
      | _ => s) := by
  show Host.Outcome.next (match s.settle.grant with
    | some (.statusWrite e) => s.settle.enterStatusWrite e
    | _ => s.settle) = _
  rw [s.settle_of_settled h]

theorem exec_forwardReadEntry (s : State) (h : s.Settled) :
    exec .forwardReadEntry s = .next (match s.grant with
      | some (.forward o i) => s.enterForward false o i
      | _ => s) := by
  show Host.Outcome.next (match s.settle.grant with
    | some (.forward o i) => s.settle.enterForward false o i
    | _ => s.settle) = _
  rw [s.settle_of_settled h]

theorem exec_forwardWriteEntry (s : State) (h : s.Settled) :
    exec .forwardWriteEntry s = .next (match s.grant with
      | some (.forward o i) => s.enterForward true o i
      | _ => s) := by
  show Host.Outcome.next (match s.settle.grant with
    | some (.forward o i) => s.settle.enterForward true o i
    | _ => s.settle) = _
  rw [s.settle_of_settled h]

/-- A granted access of the other kind does not enter. -/
theorem enterForward_of_otherKind (s : State) (write : Bool) (o : Originator) (i : SlotIx)
    (h : ∀ a d t, s.slot i = .held a d (.resolved t) → decide (a.kind = .write) ≠ write) :
    s.enterForward write o i = s := by
  unfold State.enterForward
  split
  case h_1 a d t hslot => rw [if_neg (h a d t hslot)]
  case h_2 => rfl

/-- Settles O25: the order of the sources, the rows that are not granted, and what the write-back offers. -/
theorem entryArbiterOrder : Obligations.EntryArbiterOrder := by
  refine fun s => ⟨fun hclosed => ⟨grant_of_closed s hclosed, fun hs => ?_⟩, fun hreset hseq hroom => ⟨?_, ?_, ?_, ?_⟩,
    fun hs => ⟨fun hnot => ?_, fun hnot => ?_, fun hwrite => ?_, fun hread => ?_⟩, statusOffer_of_split s,
    statusOffer_eq_none s, fun e k p d st m he => ?_⟩
  · rw [exec_forwardReadEntry s hs, exec_forwardWriteEntry s hs, exec_tableReadEntry s hs, exec_statusWriteEntry s hs,
      grant_of_closed s hclosed]
    exact ⟨rfl, rfl, rfl, rfl⟩
  · exact grant_of_asking s hreset hseq hroom
  · exact grant_of_statusOffer s hreset hseq hroom
  · intro o i k hasks hstatus ho hoffer hbefore
    rw [grant_of_noOther s hreset hseq hroom hasks hstatus, forwardGrant_of_offers s o i k ho hoffer hbefore]
  · intro hasks hstatus hnone
    rw [grant_of_noOther s hreset hseq hroom hasks hstatus, forwardGrant_eq_none s hnone]
  · rw [exec_tableReadEntry s hs]
    split
    case h_1 f hgrant => exact absurd hgrant (hnot f)
    case h_2 => rfl
  · rw [exec_statusWriteEntry s hs]
    split
    case h_1 e hgrant => exact absurd hgrant (hnot e)
    case h_2 => rfl
  · rw [exec_forwardReadEntry s hs]
    split
    case h_1 o i hgrant =>
      rw [enterForward_of_otherKind s false o i fun a d t hslot => by simp [hwrite o i a d t hgrant hslot]]
    case h_2 => rfl
  · rw [exec_forwardWriteEntry s hs]
    split
    case h_1 o i hgrant =>
      rw [enterForward_of_otherKind s true o i fun a d t hslot => by simp [hread o i a d t hgrant hslot]]
    case h_2 => rfl
  · rw [deferred_iff s e k p d st m he]
    simp only [sharer_iff]

/-! ## The entries (R54, R91, R111, R112) -/

/-- Settles O26. -/
theorem forwardReadEnters : Obligations.ForwardReadEnters := by
  intro s o i a d t ⟨hs, hgrant⟩ hslot hkind
  have henter : s.enterForward false o i = s.enterRead o i a t := by
    simp only [State.enterForward, hslot]
    rw [if_pos (by simp [hkind]), if_neg (by decide)]
  rw [exec_forwardReadEntry s hs, hgrant]
  simp only [henter, State.enterRead, setStage_held s i a d _ _ hslot]
  rfl

/-- Settles O29. -/
theorem tableReadEnters : Obligations.TableReadEnters := by
  intro s f k ws ov n ph place ⟨hs, hgrant⟩ hslot hplace
  subst hplace
  rw [exec_tableReadEntry s hs, hgrant]
  simp only [State.enterTableRead, hslot]
  rfl

theorem statusValue_eq (k : Key) (p : Bool) (d : Descriptor) (st : Byte) (m : Marks) :
    (Entry.valid k p d st m).statusValue =
      st ||| (if m.used = true then 1 else 0) ||| (if m.written = true then 2 else 0) :=
  (BitVec.or_assoc _ _ _).symm

/-- An entry that is not a VALID sharer stays as it was when a status write enters. -/
theorem sendStatus_entry_other (c : Cache) (e e' : EntryIx) (shares : Key → Bool) (hne : e' ≠ e)
    (h : ∀ k p d st m, c.entry e' = .valid k p d st m → shares k = false) :
    (c.sendStatus e shares).entry e' = c.entry e' := by
  rw [Cache.sendStatus_entry, if_neg hne]
  rcases hx : c.entry e' with _ | ⟨k, p, d, st, m⟩ | ⟨k, p⟩ | k
  case valid =>
    rw [if_neg]
    simp [Entry.key?, h k p d st m hx]
  all_goals
    split <;> rfl

theorem share_slot_install (u : FetchUnit) (p : Key → Bool) (value : Byte) (f : FetchIx) (k : Key) (ws : List Waiter)
    (n : Nat) (q : Place) (d : Descriptor) (st : Byte) (hf : u.slot f = .installing k ws n q (.valid d st)) :
    (u.share p value).slot f = .installing k ws n q (.valid d (if p k = true then addMarkBits st value else st)) := by
  show peek (everyPlace (FetchSlot.share p value) u.slots) f = _
  rw [peek_everyPlace, show peek u.slots f = _ from hf]
  rfl

theorem share_slot_other (u : FetchUnit) (p : Key → Bool) (value : Byte) (f : FetchIx)
    (hf : ∀ k ws n q d st, u.slot f ≠ .installing k ws n q (.valid d st)) : (u.share p value).slot f = u.slot f := by
  show peek (everyPlace (FetchSlot.share p value) u.slots) f = u.slot f
  rw [peek_everyPlace]
  show (u.slot f).share p value = u.slot f
  rcases hx : u.slot f with _ | ⟨k, ws, ov, n, ph⟩ | ⟨k, ws, n, q, d | _⟩
  case installing.valid => exact absurd hx (hf k ws n q _ _)
  all_goals rfl

/-- Settles O30: the entry, its sharers, and the held installs of its sharers. -/
theorem statusWriteEntersAndUpdatesSharers : Obligations.StatusWriteEntersAndUpdatesSharers := by
  intro s e k p d st m ⟨hs, hgrant⟩ he value shares
  have hvalue : (s.cache.entry e).statusValue = value := by rw [he, statusValue_eq]
  have hexec : exec .statusWriteEntry s = .next (s.enterStatusWrite e) := by
    rw [exec_statusWriteEntry s hs, hgrant]
  have henter : s.enterStatusWrite e = { s with
      cache := s.cache.sendStatus e shares
      fetch := s.fetch.share shares value
      port := s.port.enter { place := s.statusPlace k, key := k, body := .statusWrite value } } := by
    rw [← hvalue]
    simp only [State.enterStatusWrite, he]
    rfl
  rw [hexec, henter]
  refine ⟨_, rfl, ⟨rfl, rfl, rfl, rfl, rfl, rfl⟩, ?_, fun e' k' p' d' st' m' hne he' hshares => ?_,
    fun e' hne hnot => sendStatus_entry_other s.cache e e' shares hne hnot, rfl, rfl,
    fun f k' ws n q h st' hf => share_slot_install s.fetch shares value f k' ws n q h st' hf,
    fun f hf => share_slot_other s.fetch shares value f hf, rfl, rfl, rfl, rfl, rfl, rfl, rfl, rfl, rfl⟩
  · show (s.cache.sendStatus e shares).entry e = _
    rw [Cache.sendStatus_entry, if_pos rfl, he, ← hvalue, he]
    rfl
  · show (s.cache.sendStatus e shares).entry e' = _
    rw [Cache.sendStatus_entry, if_neg hne, hvalue, he', if_pos (by simpa [Entry.key?] using hshares)]
    rfl

end Sys2Proof.Proofs
end

section
/-! PROOFS. Invalidation: the model's coverage in the words of the claims, the voiding of waiting installs on two states
that agree, and the events that invalidate. -/

namespace Sys2Proof.Proofs

open Sys2Proof.Machine Sys2Proof.Claims

/-! ## Coverage (R72 to R77, R104) -/

/-- A coverage of the model covers, in a state, what a cover of the claims does. -/
structure Covers (s : State) (cov : Coverage) (c : Cover) : Prop where
  entry : ∀ e, s.coversEntry cov e = c.entry e
  fetch : ∀ k, s.coversFetch cov k = c.fetch k
  install : ∀ k ws n p h, s.coversInstall cov (.installing k ws n p h) = c.install k h

theorem covers_byKeys (s : State) (cov : Coverage) (p : Key → Bool) (hstamp : ∀ b, cov ≠ .stamp b)
    (hp : ∀ k, s.coversKey cov k = p k) : Covers s cov (Cover.byKeys p) := by
  have hentry : ∀ e, s.coversEntry cov e = (e.key?.map (s.coversKey cov)).getD false := by
    intro e
    cases cov
    case stamp b => exact absurd rfl (hstamp b)
    all_goals rfl
  have hfetch : ∀ k, s.coversFetch cov k = s.coversKey cov k := by
    intro k
    cases cov
    case stamp b => exact absurd rfl (hstamp b)
    all_goals rfl
  have hinstall : ∀ k ws n q h, s.coversInstall cov (.installing k ws n q h) = s.coversKey cov k := by
    intro k ws n q h
    cases cov
    case stamp b => exact absurd rfl (hstamp b)
    all_goals rfl
  refine ⟨fun e => ?_, fun k => (hfetch k).trans (hp k), fun k ws n q h => (hinstall k ws n q h).trans (hp k)⟩
  rw [hentry]
  cases hk : e.key? with
  | none => simp only [Cover.byKeys, hk, Option.map_none, Option.getD_none]
  | some k => simp only [Cover.byKeys, hk, Option.map_some, Option.getD_some, hp]

theorem covers_byStamp (s : State) (b : Byte) : Covers s (.stamp b) (Cover.byStamp b) where
  entry e := by cases e <;> rfl
  fetch _ := rfl
  install _ _ _ _ h := by cases h <;> rfl

theorem coversInstall_eq (s x : State) (cov : Coverage) (c : Cover) (h : Covers x cov c) (hfetch : x.fetch = s.fetch)
    (f : FetchIx) : x.coversInstall cov (x.fetch.slot f) = coveredInstall s c f := by
  rw [hfetch, coveredInstall]
  rcases s.fetch.slot f with _ | ⟨k, ws, ov, n, ph⟩ | ⟨k, ws, n, p, x⟩
  · rfl
  · rfl
  · exact h.install k ws n p x

theorem voided_eq (s x : State) (cov : Coverage) (c : Cover) (h : Covers x cov c) (hfetch : x.fetch = s.fetch) :
    x.voided cov = s.fetch.installs.filter (coveredInstall s c) := by
  rw [State.voided, funext (coversInstall_eq s x cov c h hfetch), hfetch]

theorem reached_eq (x : Entry) : x.invalidated = reached x := by
  rcases x with _ | ⟨k, p, d, st, m⟩ | ⟨k, p⟩ | k
  case valid => cases p <;> rfl
  case absent => cases p <;> rfl
  all_goals rfl

theorem invalidatedCount_eq (s x : State) (cov : Coverage) (c : Cover) (h : Covers x cov c) (hcache : x.cache = s.cache) :
    x.cache.invalidatedCount (x.coversEntry cov) = voidedCount s c := by
  rw [Cache.invalidatedCount, voidedCount, hcache, allEntries_eq_finRange, funext h.entry]

/-! ## Voiding on two states that agree (R72, R97) -/

/-- Two states with one fetch unit, and, where it is asked for, one intake and log, and one engine. -/
structure Alike (waits engine : Prop) (s v : State) : Prop where
  fetch : s.fetch = v.fetch
  waits : waits → s.intake = v.intake ∧ s.log = v.log
  engine : engine → s.engine = v.engine

theorem wakeRequest_unstable_congr (s v : State) (i : SlotIx) (h : s.intake = v.intake ∧ s.log = v.log) :
    (s.wakeRequest i .unstable).intake = (v.wakeRequest i .unstable).intake ∧
      (s.wakeRequest i .unstable).log = (v.wakeRequest i .unstable).log := by
  obtain ⟨hintake, hlog⟩ := h
  have hslot : s.slot i = v.slot i := by rw [State.slot_eq, State.slot_eq, hintake]
  have hwait : ∀ t : State, ∀ a d, t.slot i = .held a d .waitFetch →
      t.wakeRequest i .unstable = t.refuse i a .tableUnstable none none (some (byte maxReads)) := by
    intro t a d ht
    simp only [State.wakeRequest, ht]
  have hother : ∀ t : State, (∀ a d, t.slot i ≠ .held a d .waitFetch) → t.wakeRequest i .unstable = t := by
    intro t ht
    unfold State.wakeRequest
    split
    case h_1 a d hslot => exact absurd hslot (ht a d)
    case h_2 => rfl
  by_cases hw : ∃ a d, v.slot i = .held a d .waitFetch
  · obtain ⟨a, d, hw⟩ := hw
    rw [hwait v a d hw, hwait s a d (hslot.trans hw), State.refuse_unstable, State.refuse_unstable, hslot, hintake, hlog]
    exact ⟨rfl, rfl⟩
  · have hv : ∀ a d, v.slot i ≠ .held a d .waitFetch := fun a d h => hw ⟨a, d, h⟩
    rw [hother v hv, hother s (fun a d => by rw [hslot]; exact hv a d)]
    exact ⟨hintake, hlog⟩

theorem wakeCommand_engine_congr (s v : State) (k : Key) (o : FetchOutcome) (h : s.engine = v.engine) :
    (s.wakeCommand k o).engine = (v.wakeCommand k o).engine := by
  have hown : ∀ t : State, (t.wakeCommand k o).engine = (State.wakeCommand { s with engine := t.engine } k o).engine := by
    intro t
    unfold State.wakeCommand
    rcases t.engine.phase with _ | code | c | ⟨r, b⟩
    case executing => cases c <;> cases o <;> rfl
    all_goals rfl
  rw [hown v, ← h]

theorem wakeAll_unstable_alike {waits engine : Prop} {s v : State} (h : Alike waits engine s v) (k : Key)
    (ws : List Waiter) : Alike waits engine (s.wakeAll k .unstable ws) (v.wakeAll k .unstable ws) := by
  unfold State.wakeAll
  induction ws generalizing s v with
  | nil => exact h
  | cons w ws ih =>
    refine ih ⟨?_, fun hw => ?_, fun he => ?_⟩
    · rw [(s.wake_wakeFrame k .unstable w).fetch, (v.wake_wakeFrame k .unstable w).fetch, h.fetch]
    · cases w with
      | request i => exact wakeRequest_unstable_congr s v i (h.waits hw)
      | command =>
        show (s.wakeCommand k .unstable).intake = (v.wakeCommand k .unstable).intake ∧
          (s.wakeCommand k .unstable).log = (v.wakeCommand k .unstable).log
        rw [s.wakeCommand_eq, v.wakeCommand_eq]
        exact h.waits hw
    · cases w with
      | request i =>
        exact (wakeRequest_engine s i .unstable).trans ((h.engine he).trans (wakeRequest_engine v i .unstable).symm)
      | command => exact wakeCommand_engine_congr s v k .unstable (h.engine he)

/-- The model's freed slot is that of the claims (R86, R89). -/
theorem release_eq_freed (u : FetchUnit) (f : FetchIx) : u.release f = freed u f := by
  rcases u with ⟨slots, asks, waitList, installs⟩
  cases waitList <;> rfl

/-- Voiding one install acts alike on states that agree. -/
theorem voidInstall_alike {waits engine : Prop} {s v : State} (h : Alike waits engine s v) (f : FetchIx) :
    Alike waits engine (s.voidInstall f) (voided v f) := by
  rcases hf : v.fetch.slot f with _ | ⟨k, ws, ov, n, ph⟩ | ⟨k, ws, n, p, x⟩
  case installing =>
    have hf' : s.fetch.slot f = .installing k ws n p x := by rw [h.fetch, hf]
    by_cases hn : n < 5
    · rw [s.voidInstall_of_left f k ws n p x hf' hn]
      simp only [voided, hf, if_pos hn, h.fetch]
      exact ⟨rfl, h.waits, h.engine⟩
    · have hvoid : s.voidInstall f = { State.wakeAll { s with
            fetch := { s.fetch with installs := s.fetch.installs.erase f } } k .unstable ws with
          fetch := freed { s.fetch with installs := s.fetch.installs.erase f } f } := by
        simp only [State.voidInstall, hf']
        rw [State.reissueOrFail_of_used _ _ _ _ _ (Nat.not_lt.mp hn), State.endFetch_eq, release_eq_freed]
      have hvoided : voided v f = { v.wakeAll k .unstable ws with
          fetch := freed { v.fetch with installs := v.fetch.installs.erase f } f } := by
        simp only [voided, hf, if_neg hn]
        rfl
      have hwoken := wakeAll_unstable_alike
        (s := { s with fetch := { s.fetch with installs := s.fetch.installs.erase f } })
        (v := { v with fetch := { s.fetch with installs := s.fetch.installs.erase f } }) ⟨rfl, h.waits, h.engine⟩ k ws
      rw [hvoid, hvoided, h.fetch]
      have hfetch := v.wakeAll_elsewhere { s.fetch with installs := s.fetch.installs.erase f } v.port v.mem k .unstable ws
      refine ⟨rfl, fun hw => ?_, fun he => ?_⟩
      · have := hwoken.waits hw
        rw [h.fetch] at this hfetch
        rwa [hfetch] at this
      · have := hwoken.engine he
        rw [h.fetch] at this hfetch
        rwa [hfetch] at this
  all_goals
    have hvoid : s.voidInstall f = s := by simp only [State.voidInstall, h.fetch, hf]
    have hvoided : voided v f = v := by simp only [voided, hf]
    rw [hvoid, hvoided]
    exact h

theorem voidInstalls_alike {waits engine : Prop} {s v : State} (h : Alike waits engine s v) (l : List FetchIx) :
    Alike waits engine (l.foldl State.voidInstall s) (l.foldl voided v) := by
  induction l generalizing s v with
  | nil => exact h
  | cons f l ih => exact ih (voidInstall_alike h f)

/-- What an invalidation makes of fetch unit, intake, log and engine, in the words of the claims. -/
theorem invalidate_alike {waits engine : Prop} (s x : State) (cov : Coverage) (c : Cover) (hcov : Covers x cov c)
    (h : Alike waits engine x s) : Alike waits engine (x.invalidate cov) (fetchesVoided s c) := by
  rw [State.invalidate_eq, fetchesVoided, voided_eq s x cov c hcov h.fetch]
  apply voidInstalls_alike
  refine ⟨?_, h.waits, h.engine⟩
  have hslots : everyPlace (FetchSlot.overtake (x.coversFetch cov)) x.fetch.slots = Vector.ofFn fun f =>
      match s.fetch.slot f with
      | .reading k ws ov n ph => .reading k ws (ov || c.fetch k) n ph
      | x => x := by
    apply row_ext
    intro f
    rw [peek_everyPlace, peek_ofFn, funext hcov.fetch, h.fetch]
    show FetchSlot.overtake c.fetch (s.fetch.slot f) = _
    cases s.fetch.slot f <;> rfl
  show ({ x.fetch with slots := everyPlace (FetchSlot.overtake (x.coversFetch cov)) x.fetch.slots } : FetchUnit) = _
  rw [hslots, h.fetch] <;> rfl

/-! ## No covered install with five reads (R72, R97) -/

theorem coveredInstall_iff (s : State) (c : Cover) (f : FetchIx) :
    coveredInstall s c f = true ↔
      ∃ k ws n p h, s.fetch.slot f = .installing k ws n p h ∧ c.install k h = true := by
  unfold coveredInstall
  rcases hf : s.fetch.slot f with _ | ⟨k, ws, ov, n, ph⟩ | ⟨k, ws, n, p, x⟩
  case installing =>
    constructor
    · intro h
      exact ⟨k, ws, n, p, x, rfl, h⟩
    · rintro ⟨k', ws', n', p', x', heq, h⟩
      cases heq
      exact h
  all_goals
    simp

/-- An invalidation that exhausts no fetch touches cache and fetch unit alone, the fetch slots one by one. -/
theorem invalidate_of_left (s x : State) (cov : Coverage) (c : Cover) (hcov : Covers x cov c) (hfetch : x.fetch = s.fetch)
    (hlisted : s.fetch.InstallsListed) (hleft : ∀ f, exhausted c (s.fetch.slot f) = false) :
    ∃ u : FetchUnit, x.invalidate cov = { x.invalidateStart cov with fetch := u } ∧
      (∀ f, u.slot f = overtakenSlot c (s.fetch.slot f)) ∧
      u.asks = s.fetch.asks ++ s.fetch.installs.filter (coveredInstall s c) ∧
      u.installs = s.fetch.installs.filter (fun f => !coveredInstall s c f) ∧ u.waitList = s.fetch.waitList := by
  obtain ⟨hnodup, hmem⟩ := hlisted
  have hslot : ∀ f, (x.invalidateStart cov).fetch.slot f = (s.fetch.slot f).overtake c.fetch := by
    intro f
    show (x.fetch.overtake (x.coversFetch cov)).slot f = _
    rw [FetchUnit.overtake_slot, funext hcov.fetch, hfetch]
  have hinstalling : ∀ f ∈ s.fetch.installs.filter (coveredInstall s c), ∃ k ws n p h,
      (x.invalidateStart cov).fetch.slot f = .installing k ws n p h ∧ n < maxReads := by
    intro f hf
    obtain ⟨k, ws, n, p, h, hf', hc⟩ := (coveredInstall_iff s c f).mp (List.mem_filter.mp hf).2
    refine ⟨k, ws, n, p, h, by rw [hslot, hf']; rfl, ?_⟩
    have := hleft f
    rw [hf'] at this
    simp only [exhausted, hc, Bool.true_and, decide_eq_false_iff_not, Nat.not_le] at this
    exact this
  obtain ⟨u, hu, hout, hin, hwait, hasks, hinstalls⟩ := State.voidInstalls_of_left
    (s.fetch.installs.filter (coveredInstall s c)) (hnodup.filter _) (x.invalidateStart cov) hinstalling
  have hstart : (x.invalidateStart cov).fetch.asks = s.fetch.asks ∧
      (x.invalidateStart cov).fetch.installs = s.fetch.installs ∧
      (x.invalidateStart cov).fetch.waitList = s.fetch.waitList := by
    rw [← hfetch]
    exact ⟨rfl, rfl, rfl⟩
  obtain ⟨hasks', hinstalls', hwait'⟩ := hstart
  refine ⟨u, ?_, fun f => ?_, by rw [hasks, hasks'], ?_, by rw [hwait, hwait']⟩
  · rw [State.invalidate_eq, voided_eq s x cov c hcov hfetch, hu]
  · by_cases hf : f ∈ s.fetch.installs.filter (coveredInstall s c)
    · obtain ⟨k, ws, n, p, h, hf', hc⟩ := (coveredInstall_iff s c f).mp (List.mem_filter.mp hf).2
      rw [hin f hf k ws n p h (by rw [hslot, hf']; rfl), hf', overtakenSlot, if_pos hc]
    · rw [hout f hf, hslot]
      rcases hf' : s.fetch.slot f with _ | ⟨k, ws, ov, n, ph⟩ | ⟨k, ws, n, p, h⟩
      case installing =>
        have hlist : f ∈ s.fetch.installs := (hmem f).mpr (by rw [hf']; exact fun hk => nomatch hk)
        have hc : ¬ c.install k h = true := fun hc => hf (List.mem_filter.mpr
          ⟨hlist, (coveredInstall_iff s c f).mpr ⟨k, ws, n, p, h, hf', hc⟩⟩)
        rw [overtakenSlot, if_neg hc]
        rfl
      all_goals rfl
  · rw [hinstalls, hinstalls', ← List.diff_eq_foldl, hnodup.sdiff_eq_filter]
    refine List.filter_congr fun f hf => ?_
    simp [List.mem_filter, hf]

/-- An invalidation has the effect that the claims describe, on a state that agrees with `s` outside contexts, port and
engine, and so has what it leaves in any state that keeps it. -/
theorem invalidated_invalidate (s x u : State) (cov : Coverage) (c : Cover) (hcov : Covers x cov c)
    (hx : Alike True False x s) (hcache : x.cache = s.cache) (hmem : x.mem = s.mem)
    (hu : u.cache = (x.invalidate cov).cache ∧ u.fetch = (x.invalidate cov).fetch ∧ u.intake = (x.invalidate cov).intake ∧
      u.log = (x.invalidate cov).log ∧ u.mem = (x.invalidate cov).mem) : Invalidated s u c := by
  obtain ⟨ucache, ufetch, uintake, ulog, umem⟩ := hu
  have hcache' : u.cache = s.cache.invalidate c.entry := by
    rw [ucache, State.invalidate_cache, hcache, funext hcov.entry]
  have halike := invalidate_alike s x cov c hcov hx
  obtain ⟨hintake, hlog⟩ := halike.waits trivial
  obtain ⟨hxintake, hxlog⟩ := hx.waits trivial
  refine ⟨fun e => ?_, by rw [hcache']; rfl, by rw [hcache']; rfl, ?_, ?_, ?_, ?_, ?_, ufetch.trans halike.fetch,
    uintake.trans hintake, ulog.trans hlog, fun hlisted hleft => ?_⟩
  · rw [hcache', Cache.invalidate_entry, reached_eq]
  · rw [umem, State.invalidate_mem, hmem]
  · rw [uintake, State.invalidate_orders, hxintake]
  · rw [uintake, State.invalidate_presented, hxintake]
  · rw [uintake, State.invalidate_turnPtr, hxintake]
  · rw [uintake, State.invalidate_responsePtr, hxintake]
  · obtain ⟨w, hw, hslots, hasks, hinstalls, hwait⟩ := invalidate_of_left s x cov c hcov hx.fetch hlisted hleft
    rw [hw] at ufetch uintake ulog
    rw [ufetch]
    exact ⟨hslots, hasks, hinstalls, hwait, uintake.trans hxintake, ulog.trans hxlog⟩

/-! ## The invalidation commands (R74 to R77, R179) -/

/-- An invalidation and the end of its command, at the end of a frame. -/
theorem receive_invalidation (s : State) (code : Byte) (cov : Coverage) (c : Cover) (hcov : Covers (s.receive code) cov c) :
    let u := (s.receive code).runInvalidation cov
    BoardKept s u ∧ Invalidated s u c ∧ u.contexts = s.contexts ∧ u.port = s.port ∧
      u.engine = ended s .ok [BitVec.ofNat 8 (voidedCount s c)] := by
  intro u
  have hengine : ((s.receive code).invalidate cov).engine = (s.receive code).engine := invalidate_engine _ cov rfl
  refine ⟨by simp [u, State.runInvalidation, BoardKept], ?_, by simp [u, State.runInvalidation],
    by simp [u, State.runInvalidation], ?_⟩
  · exact invalidated_invalidate s (s.receive code) u cov c hcov ⟨rfl, fun _ => ⟨rfl, rfl⟩, nofun⟩ rfl rfl
      ⟨rfl, rfl, rfl, rfl, rfl⟩
  · show ({ ((s.receive code).invalidate cov).engine with phase := _ } : Engine) = _
    rw [hengine, invalidatedCount_eq s (s.receive code) cov c hcov rfl]
    rfl

/-- Settles O53: each command by its arguments. -/
theorem invalidationCommandsCover : Obligations.InvalidationCommandsCover := by
  intro s b0 b1 more o w bad acts
  have hacts : ∀ (c : Instr) (code : Byte) (cov : Coverage) (v : Cover), Covers (s.receive code) cov v →
      exec c s = .next ((s.receive code).runInvalidation cov) → acts c v := by
    intro c code cov v hcov hexec
    obtain ⟨hboard, hinv, hcontexts, hport, hengine⟩ := receive_invalidation s code cov v hcov
    exact ⟨_, hexec, hboard, hinv, hcontexts, hport, hengine⟩
  refine ⟨fun h => ⟨fun hrange => ?_, fun h0 h1 => ?_⟩, fun h => ⟨fun hrange => ?_, fun h0 => ?_⟩, fun h => ?_, fun h => ?_⟩
  · refine (frame_runs s 0x20 2 _ (fun s => s.runInvalidate (b0 :: b1 :: more)) h (by simp)).trans ?_
    rw [State.runInvalidate, keyArg_above b0 b1 more hrange]
    rfl
  · refine hacts _ 0x20 (.key { org := o, win := w }) _ (covers_byKeys _ _ _ (fun _ => nofun) fun _ => rfl)
      ((frame_runs s 0x20 2 _ (fun s => s.runInvalidate (b0 :: b1 :: more)) h (by simp)).trans ?_)
    rw [State.runInvalidate, keyArg_cons b0 b1 more o w h0 h1]
  · refine (frame_runs s 0x21 1 _ (fun s => s.runInvalidateOriginator (b0 :: more)) h (by simp)).trans ?_
    rw [State.runInvalidateOriginator, originatorArg_above b0 more hrange]
    rfl
  · refine hacts _ 0x21 (.originator o) _ (covers_byKeys _ _ _ (fun _ => nofun) fun _ => rfl)
      ((frame_runs s 0x21 1 _ (fun s => s.runInvalidateOriginator (b0 :: more)) h (by simp)).trans ?_)
    rw [State.runInvalidateOriginator, originatorArg_cons b0 more o h0]
  · exact hacts _ 0x22 (.stamp b0) _ (covers_byStamp _ _)
      (frame_runs s 0x22 1 _ (fun s => s.runInvalidation (.stamp b0)) h (by simp))
  · exact hacts _ 0x23 .all _ (covers_byKeys _ _ _ (fun _ => nofun) fun _ => rfl)
      (frame_runs s 0x23 0 _ (fun s => s.runInvalidation .all) h (Nat.zero_le _))

/-! ## SET_CONTEXT (R28, R177) -/

theorem contextArgs_out (b bt bl bh bc lim : Byte) (more : List Byte)
    (h : 3 < b.toNat ∨ 3 < bt.toNat ∨ 127 < bh.toNat ∨ 64 < bc.toNat) :
    contextArgs (b :: bt :: bl :: bh :: bc :: lim :: more) = none := by
  rw [contextArgs, dif_neg]
  show ¬ (b.toNat < 4 ∧ bt.toNat < 4 ∧ bl.toNat + 256 * bh.toNat ≤ 32767 ∧ bc.toNat ≤ 64)
  omega

theorem contextArgs_in (b bt bl bh bc lim : Byte) (more : List Byte) (o : Originator) (t : Target) (count : Fin 65)
    (ho : b.toNat = o.val) (ht : bt.toNat = t.val) (hbase : bh.toNat ≤ 127) (hcount : bc.toNat = count.val) :
    contextArgs (b :: bt :: bl :: bh :: bc :: lim :: more) = some
      { org := o, tableTarget := t, tableBase := BitVec.ofNat 15 (bl.toNat + 256 * bh.toNat), windowCount := count
        limit := lim } := by
  have hlow := bl.isLt
  have hrange : b.toNat < 4 ∧ bt.toNat < 4 ∧ bl.toNat + 256 * bh.toNat ≤ 32767 ∧ bc.toNat ≤ 64 := by omega
  have hin : arg (b :: bt :: bl :: bh :: bc :: lim :: more) 0 < 4 ∧ arg (b :: bt :: bl :: bh :: bc :: lim :: more) 1 < 4 ∧
      arg2 (b :: bt :: bl :: bh :: bc :: lim :: more) 2 ≤ 32767 ∧
      arg (b :: bt :: bl :: bh :: bc :: lim :: more) 4 ≤ 64 := hrange
  rw [contextArgs, dif_pos hin]
  congr 2 <;> exact Fin.ext ‹_›

theorem contextWritable_iff (s : State) (o : Originator) :
    s.contextWritable o = true ↔ s.mode = .boot ∨ (s.context o).state = .off ∨ (s.context o).state = .suspended := by
  simp [State.contextWritable, or_assoc]

/-- Settles O51: by the arguments and the state of the originator. -/
theorem setContextWritesAndInvalidates : Obligations.SetContextWritesAndInvalidates := by
  intro s b bt bl bh bc lim more h
  have hexec : exec (.setContext (b :: bt :: bl :: bh :: bc :: lim :: more)) s =
      .next ((s.receive 0x09).runSetContext (b :: bt :: bl :: bh :: bc :: lim :: more)) :=
    frame_runs s 0x09 6 _ (fun s => s.runSetContext (b :: bt :: bl :: bh :: bc :: lim :: more)) h (by simp)
  rw [hexec, State.runSetContext]
  refine ⟨fun hrange => ?_, fun o t count ho ht hbase hcount => ?_⟩
  · rw [contextArgs_out b bt bl bh bc lim more hrange]
    rfl
  · rw [contextArgs_in b bt bl bh bc lim more o t count ho ht hbase hcount]
    refine ⟨fun hrun hstate => ?_, fun hok => ?_⟩
    · have hnot : ¬ (s.receive 0x09).contextWritable o = true := by
        rw [contextWritable_iff]
        rintro (hboot | hoff | hsusp)
        · rw [State.receive_mode, hrun] at hboot; cases hboot
        · rw [context_receive] at hoff; rcases hstate with h | h <;> rw [h] at hoff <;> cases hoff
        · rw [context_receive] at hsusp; rcases hstate with h | h <;> rw [h] at hsusp <;> cases hsusp
      simp only [if_neg hnot]
      rfl
    · have hwritable : (s.receive 0x09).contextWritable o = true := (contextWritable_iff _ o).mpr hok
      simp only [if_pos hwritable]
      refine ⟨_, rfl, by simp [BoardKept], ?_, ?_, by simp, ?_⟩
      · simp only [State.finish_contexts, State.invalidate_contexts]
        rfl
      · exact invalidated_invalidate s ((s.receive 0x09).setContext o _) _ (.originator o) _
          (covers_byKeys _ _ _ (fun _ => nofun) fun _ => rfl) ⟨rfl, fun _ => ⟨rfl, rfl⟩, nofun⟩ rfl rfl ⟨rfl, rfl, rfl, rfl, rfl⟩
      · rw [State.finish_engine, invalidate_engine _ _ rfl]
        rfl

/-! ## FORWARD_WRITE_ENTRY and the table watch (R55, R104, R105) -/

/-- Settles O27: the entry of the write, and what the table watch invalidates in the same step. -/
theorem forwardWriteEntersAndIsWatched : Obligations.ForwardWriteEntersAndIsWatched := by
  intro s o i a v t ⟨hs, hgrant⟩ hslot hkind touched
  let posted : State := { s with
    intake := { s.intake with
      slots := poke s.intake.slots i (.held a (some v) (.answerReady (some t) (.done none))) } }
  let entered : State := { posted with
    port := Port.tryStart { s.port with
      queue := s.port.queue ++ [{ place := t.place, key := t.key, body := .forwardWrite a (placedBytes t.swap a.size v) }]
      forwardPtr := o + 1 } }
  have henter : s.enterForward true o i = entered.invalidate (.write t.place a.size.bytes) := by
    simp only [State.enterForward, hslot, hkind, decide_true, if_true, State.enterWrite,
      setStage_held s i a (some v) _ _ hslot]
    rfl
  have hexec : exec .forwardWriteEntry s = .next (entered.invalidate (.write t.place a.size.bytes)) := by
    rw [exec_forwardWriteEntry s hs, hgrant, ← henter]
  have hcov : Covers entered (.write t.place a.size.bytes) touched :=
    covers_byKeys _ _ _ (fun _ => nofun) fun _ => rfl
  have hslot' : entered.slot i = .held a (some v) (.answerReady (some t) (.done none)) := by
    show peek (poke s.intake.slots i _) i = _
    rw [peek_poke, if_pos rfl]
  refine ⟨_, hexec, by simp [BoardKept, entered, posted], ?_, by rw [State.invalidate_port],
    by rw [State.invalidate_contexts], ?_, ?_, fun hlisted hleft => ?_⟩
  · rw [State.invalidate_slot _ _ _ (by rw [hslot']; exact fun _ _ => nofun), hslot']
  · exact invalidated_invalidate posted entered _ _ touched hcov ⟨rfl, fun _ => ⟨rfl, rfl⟩, nofun⟩ rfl rfl
      ⟨rfl, rfl, rfl, rfl, rfl⟩
  · exact (invalidate_alike (waits := False) (engine := True) s entered _ touched hcov
      ⟨rfl, nofun, fun _ => rfl⟩).engine trivial
  · obtain ⟨w, hw, -⟩ := invalidate_of_left s entered _ touched hcov rfl hlisted hleft
    rw [hw]
    rfl

end Sys2Proof.Proofs
end

section
/-! PROOFS. The end of a fetch: an install, a failure, another read, and the install that waits. -/

namespace Sys2Proof.Proofs

open Sys2Proof.Machine Sys2Proof.Claims

/-! ## A fetch is over (R93, R99) -/

/-- The fetch of slot `f` is over: its waiters are woken with cache `c`, the slot is freed, `l` are the installs that
wait and `p` is the port. -/
def fetchOver (s : State) (c : Cache) (f : FetchIx) (l : List FetchIx) (k : Key) (ws : List Waiter) (o : FetchOutcome)
    (p : Port) : State :=
  { State.wakeAll { s with cache := c } k o ws with
    fetch := FetchUnit.release { s.fetch with installs := l } f
    port := p
    mem := s.mem }

theorem endFetch_eq_fetchOver (s : State) (c : Cache) (f : FetchIx) (l : List FetchIx) (k : Key) (ws : List Waiter)
    (o : FetchOutcome) (p : Port) :
    State.endFetch { s with cache := c, port := p, fetch := { s.fetch with installs := l } } f k ws o =
      fetchOver s c f l k ws o p := by
  have hwoken := State.wakeAll_elsewhere { s with cache := c } { s.fetch with installs := l } p s.mem k o ws
  rw [State.endFetch_eq, fetchOver]
  exact congrArg (fun u : State => { u with fetch := FetchUnit.release { s.fetch with installs := l } f }) hwoken

section
variable (s : State) (c : Cache) (f : FetchIx) (l : List FetchIx) (k : Key) (ws : List Waiter) (o : FetchOutcome) (p : Port)

theorem fetchOver_sequence : (fetchOver s c f l k ws o p).sequence = s.sequence :=
  (State.wakeAll_wakeFrame { s with cache := c } k o ws).sequence

theorem boardKept_fetchOver : BoardKept s (fetchOver s c f l k ws o p) :=
  have h := State.wakeAll_wakeFrame { s with cache := c } k o ws
  ⟨h.resetActive, h.mode, h.sequence, h.waiting, h.freeCount, h.pending⟩

theorem slotFreed_fetchOver : SlotFreed s (fetchOver s c f l k ws o p) f := by
  have hfetch : (fetchOver s c f l k ws o p).fetch = freed { s.fetch with installs := l } f := release_eq_freed _ f
  rw [SlotFreed, hfetch]
  refine ⟨?_, rfl, rfl, fun g hg => ?_⟩
  · exact (peek_poke s.fetch.slots f f _).trans (if_pos rfl)
  · exact (peek_poke s.fetch.slots f g _).trans (if_neg (Ne.symm hg))

theorem installs_fetchOver : (fetchOver s c f l k ws o p).fetch.installs = l := by
  show (FetchUnit.release { s.fetch with installs := l } f).installs = l
  rw [release_eq_freed]
  rfl

theorem woken_fetchOver : Woken (wokenBy { s with cache := c } k o ws) (fetchOver s c f l k ws o p) :=
  ⟨rfl, rfl, rfl, rfl, rfl⟩

/-- Outside a soft reset the next operation starts when it can. -/
theorem afterOperation_fetchOver (h : s.sequence ≠ .resetMemory) :
    (fetchOver s c f l k ws o p).afterOperation = fetchOver s c f l k ws o p.tryStart := by
  rw [State.afterOperation_of_run _ (by rw [fetchOver_sequence]; exact h)]
  rfl

end

theorem afterOperation_fetch (s : State) (u : FetchUnit) (h : s.sequence ≠ .resetMemory) :
    State.afterOperation { s with fetch := u } = { s with fetch := u, port := s.port.tryStart } :=
  State.afterOperation_of_run { s with fetch := u } h

theorem not_resetMemory_of_not_inReset {q : Sequence} (h : q.inReset = false) : q ≠ .resetMemory := by
  rintro rfl
  cases h

/-! ## Installs (R69, R70, R79) -/

theorem isPin_iff (p : EnginePhase) : p.isPin = true ↔ ∃ k, p = .executing (.pin k) := by
  unfold EnginePhase.isPin
  split
  case h_1 k => simp
  case h_2 hother =>
    simp only [Bool.false_eq_true, false_iff]
    rintro ⟨k, rfl⟩
    exact hother k rfl

theorem pinWaits_iff (s : State) (ws : List Waiter) : s.pinWaits ws = true ↔ PinAmong s ws := by
  rw [State.pinWaits, Bool.and_eq_true, List.contains_iff_mem, isPin_iff]
  rfl

theorem install_eq_installed (c : Cache) (e : EntryIx) (k : Key) (pinned : Bool) (h : Held) :
    c.install e (h.entry k pinned) = installed c e k pinned h := by
  cases h <;> rfl

theorem outcome_eq_installOutcome (h : Held) (e : EntryIx) (fresh : Bool) : h.outcome e fresh = installOutcome e fresh h := by
  cases h <;> rfl

/-- An install is the end of its fetch, with the entry that received it in the cache. -/
theorem makeInstall_eq_fetchOver (s : State) (p : Port) (l : List FetchIx) (f : FetchIx) (k : Key) (ws : List Waiter)
    (h : Held) (e : EntryIx) (pinned fresh : Bool) (hpin : pinned = true ↔ s.cache.entry e = .stale k ∨ PinAmong s ws)
    (hfresh : fresh = true ↔ s.cache.entry e ≠ .stale k) :
    State.makeInstall { s with port := p, fetch := { s.fetch with installs := l } } f k ws h e =
      fetchOver s (installed s.cache e k pinned h) f l k ws (installOutcome e fresh h) p := by
  have hstale : (s.cache.entry e).staleOf k = !fresh := by
    rw [Bool.eq_iff_iff, Entry.staleOf_iff, Bool.not_eq_true', ← Bool.not_eq_true, hfresh, not_not]
  have hpinned : ((s.cache.entry e).staleOf k || s.pinWaits ws) = pinned := by
    rw [Bool.eq_iff_iff, Bool.or_eq_true, Entry.staleOf_iff, pinWaits_iff, hpin]
  rw [← endFetch_eq_fetchOver, ← install_eq_installed, ← outcome_eq_installOutcome, ← hpinned]
  show State.endFetch _ f k ws (h.outcome e (!(s.cache.entry e).staleOf k)) = _
  rw [hstale, Bool.not_not]
  rfl

/-- What the bytes of a table read are when they are installed (R9, R10). -/
def HeldFrom (bytes : List Byte) (h : Held) : Prop :=
  (∃ desc st, judgeBytes bytes = .valid desc st ∧ h = .valid desc st) ∨ judgeBytes bytes = .absent ∧ h = .absent

/-- A table read that was not overtaken and whose bytes are well-formed or absent asks for an install (R96). -/
theorem fetchCompleted_of_held (s : State) (f : FetchIx) (bytes : List Byte) (k : Key) (ws : List Waiter) (count : Nat)
    (place : Place) (h : Held) (hin : s.sequence.inReset = false)
    (hslot : s.fetch.slot f = .reading k ws false count (.queued place)) (hheld : HeldFrom bytes h) :
    s.fetchCompleted f bytes = s.installOrWait f k ws count place h := by
  rcases hheld with ⟨desc, st, hjudge, rfl⟩ | ⟨hjudge, rfl⟩ <;> simp [State.fetchCompleted, hslot, hin, hjudge]

/-- A table read that completes outside a soft reset. -/
theorem exec_tableReadCompletes (s : State) (pr : Progress) (op : MemOp) (rest : List MemOp) (x n : Nat) (f : FetchIx)
    (h : LastBeat s pr op rest x n) (hbody : op.body = .tableRead f) :
    exec (.tableReadComplete x) s = .next (((operationLeft s pr op rest n s.mem).fetchCompleted f
      (pr.gathered ++ beatBytes s op pr.beat)).afterOperation) := by
  have hread := isWrite_of_tableRead op f hbody
  rw [exec_completes s pr op rest x n (.tableReadComplete x) h (by simp only [lastEnd, hbody]; rfl),
    gathered_of_read op pr s hread, memAfter_of_read op pr s.mem hread]
  simp only [State.handOver, hbody]

/-- Settles O37: the read that completes asks for an install, and an entry receives it. -/
theorem fetchInstallsAndWakes : Obligations.FetchInstallsAndWakes := by
  intro s pr op rest x n f k ws count place h e pinned fresh hlast hin hbody hslot hheld hreceiver hpin hfresh
  have hchoose : (operationLeft s pr op rest n s.mem).cache.choose k = some e := (Cache.choose_eq_some _ k e).mpr hreceiver
  have hinstall := makeInstall_eq_fetchOver s (operationLeft s pr op rest n s.mem).port s.fetch.installs f k ws h e pinned
    fresh hpin hfresh
  rw [exec_tableReadCompletes s pr op rest x n f hlast hbody,
    fetchCompleted_of_held (operationLeft s pr op rest n s.mem) f _ k ws count place h hin hslot hheld]
  simp only [State.installOrWait, hchoose]
  rw [show (operationLeft s pr op rest n s.mem).makeInstall f k ws h e = _ from hinstall,
    afterOperation_fetchOver _ _ _ _ _ _ _ _ (not_resetMemory_of_not_inReset hin)]
  exact ⟨_, rfl, boardKept_fetchOver .., rfl, slotFreed_fetchOver .., installs_fetchOver .., rfl, woken_fetchOver ..⟩

/-! ## A fetch that does not install (R94 to R97) -/

/-- Settles O38: another read, or the end of the fetch by its failure. -/
theorem fetchEndsWithoutInstall : Obligations.FetchEndsWithoutInstall := by
  intro s pr op rest x n f k ws ov count place hin hbody hslot wakes
  let left := operationLeft s pr op rest n s.mem
  have hslot' : left.fetch.slot f = .reading k ws ov count (.queued place) := hslot
  have hin' : left.sequence.inReset = false := hin
  have hwakes : ∀ o, ∃ u, (.next (left.endFetch f k ws o).afterOperation : Host.Outcome State Fault Refusal) = .next u ∧
      wakes u o := by
    intro o
    have hover : left.endFetch f k ws o = fetchOver s s.cache f s.fetch.installs k ws o left.port :=
      endFetch_eq_fetchOver s s.cache f s.fetch.installs k ws o left.port
    rw [hover, afterOperation_fetchOver _ _ _ _ _ _ _ _ (not_resetMemory_of_not_inReset hin)]
    exact ⟨_, rfl, boardKept_fetchOver .., rfl, slotFreed_fetchOver .., installs_fetchOver .., rfl, woken_fetchOver ..⟩
  refine ⟨fun hlast hov hleft => ?_, fun hlast hov hused => ?_, fun hlast hov b5 hjudge => ?_, fun habandons => ?_⟩
  · have hreissue : left.fetchCompleted f (pr.gathered ++ beatBytes s op pr.beat) =
        { left with fetch := left.fetch.reissue f k ws count } := by
      simp only [State.fetchCompleted, hslot', hin', hov, if_true, Bool.false_eq_true, if_false]
      exact State.reissueOrFail_of_left left f k ws count hleft
    rw [exec_tableReadCompletes s pr op rest x n f hlast hbody, hreissue,
      afterOperation_fetch left _ (not_resetMemory_of_not_inReset hin)]
    exact ⟨_, rfl, ⟨rfl, rfl, rfl, rfl, rfl, rfl⟩, rfl, rfl, rfl, rfl, rfl, rfl, rfl, rfl⟩
  · have hend : left.fetchCompleted f (pr.gathered ++ beatBytes s op pr.beat) = left.endFetch f k ws .unstable := by
      simp only [State.fetchCompleted, hslot', hin', hov, if_true, Bool.false_eq_true, if_false]
      exact State.reissueOrFail_of_used left f k ws count hused
    rw [exec_tableReadCompletes s pr op rest x n f hlast hbody, hend]
    exact hwakes .unstable
  · have hend : left.fetchCompleted f (pr.gathered ++ beatBytes s op pr.beat) = left.endFetch f k ws (.malformed b5) := by
      simp only [State.fetchCompleted, hslot', hin', hov, hjudge, Bool.false_eq_true, if_false]
    rw [exec_tableReadCompletes s pr op rest x n f hlast hbody, hend]
    exact hwakes (.malformed b5)
  · have hend : left.handFailure op = left.endFetch f k ws (.readFailed place) := by
      simp only [State.handFailure, hbody, State.fetchFailed, hslot', hin', Bool.false_eq_true, if_false]
    rw [exec_abandons s pr op rest n habandons, hend]
    exact hwakes (.readFailed place)

/-! ## The install that waits (R71; log 10) -/

theorem settle_idem (s : State) : s.settle.settle = s.settle := by
  by_cases h : s.resetActive = true
  · rw [s.settle_of_reset h, s.settle_of_reset h]
  · have hsettle : s.settle = s.makeWaitingInstall.makeWaitingInstall := by rw [State.settle, if_neg h]
    have hreset : ¬ s.settle.resetActive = true := by rwa [s.settle_resetActive]
    have hagain : s.settle.settle = s.settle.makeWaitingInstall.makeWaitingInstall := by rw [State.settle, if_neg hreset]
    rw [hagain, hsettle, s.makeWaitingInstall_thrice, s.makeWaitingInstall_thrice]

/-- Every row but those of the install wait and of the reset input acts as in the settled state. -/
theorem exec_settle (c : Instr) (s : State) (hinstall : c ≠ .waitingInstallMade) (hassert : c ≠ .resetAsserted)
    (hrelease : c ≠ .resetReleased) : exec c s.settle = exec c s := by
  have h := settle_idem s
  cases c
  case waitingInstallMade => exact absurd rfl hinstall
  case resetAsserted => exact absurd rfl hassert
  case resetReleased => exact absurd rfl hrelease
  all_goals
    simp only [exec, execAdmission, execResponsePresented, execResponseDeparture, execResolutionTurn,
      execForwardReadEntry, execForwardWriteEntry, execTableReadEntry, execStatusWriteEntry, execRecoveryExpiry,
      execForwardReadComplete, execWriteOperationComplete, execTableReadComplete, execExtendLimitExpiry, execStatus,
      execUnknownCommand, execReadWord, execWriteWord, execWriteAttentionMask, execWriteTimingRecord, execGetContext,
      execSetContext, execOriginatorOn, execOriginatorOff, execSuspend, execResume, execReleaseQuarantine, execInvalidate,
      execInvalidateOriginator, execInvalidateStamp, execInvalidateAll, execPin, execUnpin, execCacheRead, execProbe,
      execLogHead, execLogPop, execLogClear, execEngage, execSoftReset, execCodeByteWhole, execBeatComplete, h]

theorem step_settle (s : State) (h : s.pending = []) : step s = .next s.settle.period := by
  simp only [step, h, State.tick]

theorem exec_waitingInstallMade (s : State) (h : s.resetActive = false) :
    exec .waitingInstallMade s = .next s.makeWaitingInstall := by
  show Host.Outcome.next (if s.resetActive = true then s else s.makeWaitingInstall) = _
  rw [if_neg (by simp [h])]

/-- Settles O41: the read whose install waits, the install that is made, and the rows behind it. -/
theorem installWaitsAndIsMade : Obligations.InstallWaitsAndIsMade := by
  refine ⟨fun s pr op rest x n f k ws count place h hlast hin hbody hslot hheld hnone => ?_,
    fun s f later k ws count place h hreset hlist hslot => ?_, fun s u v hreset hu hv => ?_⟩
  · have hchoose : (operationLeft s pr op rest n s.mem).cache.choose k = none := Cache.choose_eq_none _ k hnone
    rw [exec_tableReadCompletes s pr op rest x n f hlast hbody,
      fetchCompleted_of_held (operationLeft s pr op rest n s.mem) f _ k ws count place h hin hslot hheld]
    simp only [State.installOrWait, hchoose]
    rw [afterOperation_fetch (operationLeft s pr op rest n s.mem) _ (not_resetMemory_of_not_inReset hin)]
    exact ⟨_, rfl, ⟨rfl, rfl, rfl, rfl, rfl, rfl⟩, rfl, rfl, rfl, rfl, rfl, rfl, rfl, rfl⟩
  · rw [exec_waitingInstallMade s hreset]
    refine ⟨fun e pinned fresh hreceiver hpin hfresh => ?_, fun hnone => ?_⟩
    · have hmade : s.makeWaitingInstall =
          fetchOver s (installed s.cache e k pinned h) f later k ws (installOutcome e fresh h) s.port :=
        (s.makeWaitingInstall_of_some f later k ws count place h e hlist hslot
          ((Cache.choose_eq_some _ k e).mpr hreceiver)).trans (makeInstall_eq_fetchOver s s.port later f k ws h e pinned fresh hpin hfresh)
      rw [hmade]
      exact ⟨_, rfl, boardKept_fetchOver .., slotFreed_fetchOver .., installs_fetchOver .., rfl, rfl, woken_fetchOver ..⟩
    · rw [s.makeWaitingInstall_of_settled fun g hg k' hk' e => ?_]
      rw [hlist] at hg
      cases hg
      rw [hslot] at hk'
      cases hk'
      exact hnone e
  · rw [exec_waitingInstallMade s hreset] at hu
    cases hu
    have hreset' : s.makeWaitingInstall.resetActive = false := s.makeWaitingInstall_frame.resetActive.trans hreset
    rw [exec_waitingInstallMade _ hreset'] at hv
    cases hv
    have hsettle : s.makeWaitingInstall.settle = s.settle := s.settle_makeWaitingInstall hreset
    have hsettle' : s.makeWaitingInstall.makeWaitingInstall = s.settle := by
      rw [State.settle, if_neg (by simp [hreset])]
    rw [hsettle']
    refine ⟨fun c hinstall hassert hrelease => ⟨?_, (exec_settle c s hinstall hassert hrelease).symm⟩, fun hpending => ?_,
      s.settle_settled hreset⟩
    · rw [← exec_settle c s hinstall hassert hrelease, ← exec_settle c s.makeWaitingInstall hinstall hassert hrelease,
        hsettle]
    · rw [step_settle s hpending, step_settle s.settle (s.settle_pending.trans hpending), settle_idem]

end Sys2Proof.Proofs
end

section
/-! PROOFS. The reset input, the link, and the commands PIN, UNPIN and PROBE. -/

namespace Sys2Proof.Proofs

open Sys2Proof.Machine Sys2Proof.Claims

/-! ## The reset input (R59, R135, R166) -/

theorem cutStrobe_eq (s : State) :
    s.cutStrobe = { s with mem := s.cutStrobe.mem, freeCount := s.cutStrobe.freeCount } := by
  unfold State.cutStrobe
  split
  · split <;> rfl
  · rfl

/-- No write strobe is cut: the assertion leaves the memory devices. -/
theorem cutStrobe_of_noStrobe (s : State)
    (h : ∀ pr op rest, s.port.current = some pr → s.port.queue = op :: rest → pr.phase ≠ .strobe ∨ op.isWrite = false) :
    s.cutStrobe = s := by
  unfold State.cutStrobe
  split
  case h_1 pr op rest hc hq =>
    rw [if_neg]
    rintro ⟨hstrobe, hwrite⟩
    rcases h pr op rest hc hq with hne | hread
    · exact hne hstrobe
    · rw [hread] at hwrite; cases hwrite
  case h_2 => rfl

/-- Settles O45. -/
theorem resetInputTakesAndReleases : Obligations.ResetInputTakesAndReleases := by
  intro s
  have hcut := cutStrobe_eq s
  have hexec : exec .resetAsserted s = .next s.cutStrobe.pinReset := rfl
  refine ⟨⟨_, hexec, rfl, rfl, rfl, rfl, rfl, rfl, rfl, rfl, rfl, rfl, rfl, fun c hphase => ?_, rfl, rfl, rfl,
    fun m k => if_pos (.inl rfl), ?_, ?_, fun hnone => ?_⟩, rfl, fun hseq => ?_⟩
  · rw [hcut]
    show s.engine.linkAtReset = .ignored c
    simp only [Engine.linkAtReset, hphase]
  · rw [hcut]
    rfl
  · rw [hcut]
    rfl
  · rw [cutStrobe_of_noStrobe s hnone]
    rfl
  · rw [isOpen_iff]
    exact ⟨rfl, by rw [show ({ s with resetActive := false } : State).sequence = .none from hseq]; rfl⟩

/-! ## STATUS and CODE_BYTE_WHOLE (R167 to R171, R174) -/

theorem toList_getD {n : Nat} (v : Vector Byte n) (k : Fin n) : v.toList.getD k.val 0 = peek v k := by
  simp [peek, List.getD_eq_getElem?_getD]

theorem toList_getD_beyond {n : Nat} (v : Vector Byte n) (k : Nat) (h : n ≤ k) : v.toList.getD k 0 = 0 := by
  simp [List.getD_eq_getElem?_getD, h]

/-- The fields of the status byte do not overlap (TABLE 49). -/
theorem status_digits (code : Byte) (run atn busy : Bool) (h : code = 0 ∨ code = 1 ∨ code = 2 ∨ code = 3) :
    code ||| ((if run = true then (1 : Byte) else 0) <<< 2) ||| (byteOfBool atn <<< 3) ||| (byteOfBool busy <<< 4) =
      code + (if run = true then 4 else 0) + (if atn = true then 8 else 0) + (if busy = true then 16 else 0) := by
  rcases h with rfl | rfl | rfl | rfl
  all_goals
    revert run atn busy
    decide

theorem statusByte_eq (s : State) :
    s.statusByte = s.engine.phase.code + (if s.mode = .run then 4 else 0) + (if s.atn = true then 8 else 0) +
      (if s.engine.rejectedBusy = true then 16 else 0) := by
  have hmode : s.mode.code = if decide (s.mode = .run) = true then (1 : Byte) else 0 := by cases s.mode <;> rfl
  have hrun : (if s.mode = .run then (4 : Byte) else 0) = if decide (s.mode = .run) = true then 4 else 0 := by
    cases s.mode <;> rfl
  have hcode : s.engine.phase.code = 0 ∨ s.engine.phase.code = 1 ∨ s.engine.phase.code = 2 ∨ s.engine.phase.code = 3 := by
    cases s.engine.phase
    · exact .inl rfl
    · exact .inr (.inl rfl)
    · exact .inr (.inr (.inl rfl))
    · exact .inr (.inr (.inr rfl))
  rw [State.statusByte, hmode, hrun]
  exact status_digits _ _ _ _ hcode

theorem statusReply_bytes (s : State) (k : Fin 24) :
    peek s.statusReply ⟨k.val + 2, by omega⟩ = peek s.engine.phase.bytes k := by
  rw [State.statusReply, peek_ofFn]
  simp only [Nat.add_sub_cancel]
  rw [if_neg (by omega), if_neg (by omega), toList_getD]

theorem exec_status (s : State) (hreset : s.resetActive = false) (hs : s.Settled) : exec .status s = .next s.formReply := by
  show Host.Outcome.next s.settle.statusFrame = _
  rw [s.settle_of_settled hs, State.statusFrame, if_neg (by simp [hreset])]

theorem exec_codeByteWhole (s : State) (code : Byte) (hreset : s.resetActive = false) (hs : s.Settled) :
    exec (.codeByteWhole code) s = .next (if code = statusCode then s.formReply
      else match s.engine.phase with
        | .receiving _ => s
        | .executing _ => s.refuseBusy (.ignored code)
        | .idle => s.receive code
        | .complete _ _ => s.receive code) := by
  show Host.Outcome.next (s.settle.codeByte code) = _
  rw [s.settle_of_settled hs, State.codeByte, if_neg (by simp [hreset])] <;> rfl

theorem msdo_of_reset (s : State) (m : Bool) (k : Nat) (h : s.resetActive = true ∨ m = false) : s.msdo m k = none := by
  rw [State.msdo, if_pos h]

/-- Settles O46: what MSDO carries, the reply, and the code byte by the engine state. -/
theorem statusAnswersAndCodeByteBegins : Obligations.StatusAnswersAndCodeByteBegins := by
  refine ⟨fun s k => ⟨msdo_of_reset s false k (.inr rfl), fun hreset m => msdo_of_reset s m k (.inl hreset),
      fun hreset => ⟨fun reply hlink => ⟨?_, fun j => ?_, fun hk => ?_⟩, fun hlink => ?_⟩⟩,
    fun s hreset hs => ⟨s.statusReply, exec_status s hreset hs, ?_, ?_, ?_, fun k => ?_⟩,
    fun s code hreset hs hcode => ⟨fun hphase => ?_, fun c hphase => ?_⟩⟩
  · rw [State.msdo, if_neg (by simp [hreset]), hlink]
    rfl
  · rw [State.msdo, if_neg (by simp [hreset]), hlink]
    exact congrArg some (toList_getD reply j)
  · rw [State.msdo, if_neg (by simp [hreset]), hlink]
    exact congrArg some ((if_neg (by omega)).trans (toList_getD_beyond reply (k - 1) (by omega)))
  · rw [State.msdo, if_neg (by simp [hreset])]
    split
    case h_1 reply hreply => exact absurd hreply (hlink reply)
    case h_2 => rfl
  · rw [exec_codeByteWhole s _ hreset hs, exec_status s hreset hs, if_pos (show (0x01 : Byte) = statusCode from rfl)]
  · rw [State.statusReply, peek_ofFn]
    show s.statusByte = _
    rw [statusByte_eq]
    cases s.engine.phase <;> rfl
  · rw [State.statusReply, peek_ofFn]
    cases s.engine.phase <;> rfl
  · rw [statusReply_bytes]
    cases s.engine.phase with
    | complete r b => rfl
    | idle | receiving | executing => exact peek_replicate 0 k
  · rw [exec_codeByteWhole s code hreset hs, if_neg (show ¬ code = statusCode from hcode)]
    rcases hphase with hphase | ⟨r, b, hphase⟩ <;> rw [hphase] <;> rfl
  · rw [exec_codeByteWhole s code hreset hs, if_neg (show ¬ code = statusCode from hcode), hphase]
    rfl

/-! ## PIN (R78, R79, R181) -/

theorem pinCount_eq (c : Cache) : c.pinCount = ((List.finRange 16).filter fun e => (c.entry e).pinned).length := by
  rw [Cache.pinCount, allEntries_eq_finRange]

theorem byteOfBool_not (p : Bool) : byteOfBool (!p) = if p = true then 0 else 1 := by
  cases p <;> rfl

/-- No place for another pin: no entry of the key is pinned, and 12 are (R66, R78). -/
def NoPinPlace (c : Cache) (k : Key) : Prop :=
  (∀ e, (c.entry e).pinned = true → (c.entry e).key? ≠ some k) ∧
    12 ≤ ((List.finRange 16).filter fun e => (c.entry e).pinned).length

theorem noPinPlace_iff (c : Cache) (k : Key) : NoPinPlace c k ↔ c.pinnedOf k = none ∧ maxPins ≤ c.pinCount := by
  rw [Cache.pinnedOf_eq_none, pinCount_eq]
  rfl

section
variable (s : State) (args : List Byte) (k : Key) (hkey : keyArg args = some k)
include hkey

theorem runPin_wrongState (h : (s.context k.org).state = .off ∨ (s.context k.org).windowCount.val ≤ k.win.val) :
    s.runPin args = s.finish .wrongState [] := by
  simp only [State.runPin, hkey]
  rw [if_pos h]

variable (hstate : (s.context k.org).state ≠ .off) (hwindow : k.win.val < (s.context k.org).windowCount.val)
include hstate hwindow

theorem runPin_noRoom (h : NoPinPlace s.cache k) :
    s.runPin args = ({ s with cache := s.cache.lookedUp k }).finish .noRoom [] := by
  simp only [State.runPin, hkey]
  rw [if_neg (by simp [hstate, hwindow]), if_pos ((noPinPlace_iff _ _).mp h)]

theorem runPin_hit (h : ¬ NoPinPlace s.cache k) (e : EntryIx) (hfind : s.cache.find k = some e) :
    s.runPin args = ({ s with cache := (s.cache.touch e).pin e }).finish .ok
      (pinLayout e (s.cache.entry e).code (!(s.cache.entry e).pinned)) := by
  simp only [State.runPin, hkey]
  rw [if_neg (by simp [hstate, hwindow]), if_neg (mt (noPinPlace_iff _ _).mpr h), hfind]

theorem runPin_miss (h : ¬ NoPinPlace s.cache k) (hfind : s.cache.find k = none) :
    s.runPin args = { s.execute (.pin k) with fetch := s.fetch.placeMiss k .command } := by
  simp only [State.runPin, hkey]
  rw [if_neg (by simp [hstate, hwindow]), if_neg (mt (noPinPlace_iff _ _).mpr h), hfind]

end

/-- Settles O54: the checks of PIN in their order. -/
theorem pinChecksThenHitsOrFetches : Obligations.PinChecksThenHitsOrFetches := by
  intro s b0 b1 more h front
  have hexec : exec (.pin (b0 :: b1 :: more)) s = .next ((s.receive 0x24).runPin (b0 :: b1 :: more)) :=
    frame_runs s 0x24 2 _ (fun s => s.runPin (b0 :: b1 :: more)) h (by simp)
  rw [hexec]
  refine ⟨fun hrange => ?_, fun o w key h0 h1 hkey => ?_⟩
  · rw [State.runPin, keyArg_above b0 b1 more hrange]
    rfl
  subst hkey
  have harg := keyArg_cons b0 b1 more o w h0 h1
  refine ⟨fun hwrong => ?_, fun hstate hwindow => ⟨fun hnone hfull => ?_, fun hplace => ?_⟩⟩
  · rw [runPin_wrongState (s.receive 0x24) _ _ harg hwrong]
    rfl
  · rw [runPin_noRoom (s.receive 0x24) _ _ harg hstate hwindow ⟨hnone, hfull⟩, State.receive_cache]
    refine ⟨fun e hfind => ?_, fun hfind => ?_⟩
    · simp only [Cache.lookedUp, hfind]
      rfl
    · simp only [Cache.lookedUp, hfind]
      rfl
  · have hroom : ¬ NoPinPlace (s.receive 0x24).cache { org := o, win := w } := by
      rintro ⟨hnone, hfull⟩
      rcases hplace with ⟨e, hpinned, hk⟩ | hcount
      · exact hnone e hpinned hk
      · exact absurd hcount (Nat.not_lt.mpr hfull)
    refine ⟨fun e k p d st m hfind he => ?_, fun e k p hfind he => ?_, fun hfind => ?_⟩
    · have htouched : ((s.receive 0x24).cache.touch e).entry e = .valid k p d st m := he
      rw [runPin_hit (s.receive 0x24) _ _ harg hstate hwindow hroom e hfind, State.receive_cache, he, Cache.pin,
        ← State.receive_cache s 0x24, htouched, Entry.pinned, pinLayout, byteOfBool_not]
      rfl
    · have htouched : ((s.receive 0x24).cache.touch e).entry e = .absent k p := he
      rw [runPin_hit (s.receive 0x24) _ _ harg hstate hwindow hroom e hfind, State.receive_cache, he, Cache.pin,
        ← State.receive_cache s 0x24, htouched, Entry.pinned, pinLayout, byteOfBool_not]
      rfl
    · rw [runPin_miss (s.receive 0x24) _ _ harg hstate hwindow hroom hfind]
      rfl

/-! ## UNPIN (R80, R181) -/

/-- The lists stay when one entry changes that is not FREE before or after, and its marks are empty or not as before. -/
theorem withEntries_poke (c : Cache) (e : EntryIx) (x : Entry) (hok : c.Ok) (hfree : x.isFree = false)
    (hmarks : x.hasMarks = (c.entry e).hasMarks) :
    c.withEntries (poke c.entries e x) = { c with entries := poke c.entries e x } := by
  obtain ⟨-, hrecency, -, hasking⟩ := hok
  have hr : c.recency.filter (fun i => !(peek (poke c.entries e x) i).isFree) = c.recency := by
    rw [List.filter_eq_self]
    intro i hi
    rw [peek_poke]
    split
    · simp [hfree]
    · have hheld : (peek c.entries i).isFree = false := (hrecency i).mp hi
      simp [hheld]
  have ha : c.asking.filter (fun i => (peek (poke c.entries e x) i).hasMarks) = c.asking := by
    rw [List.filter_eq_self]
    intro i hi
    have hmi := (hasking i).mp hi
    rw [peek_poke]
    split
    case isTrue heq => rw [hmarks, heq]; exact hmi
    case isFalse => exact hmi
  rw [Cache.withEntries, hr, ha]

/-- An entry without marks that becomes FREE leaves the recency list. -/
theorem withEntries_free (c : Cache) (e : EntryIx) (hok : c.Ok) (hmarks : (c.entry e).hasMarks = false) :
    c.withEntries (poke c.entries e .free) = { c with
      entries := poke c.entries e .free
      recency := c.recency.filter fun e' => decide (e' ≠ e) } := by
  obtain ⟨-, hrecency, -, hasking⟩ := hok
  have hr : c.recency.filter (fun i => !(peek (poke c.entries e .free) i).isFree) =
      c.recency.filter fun e' => decide (e' ≠ e) := by
    refine List.filter_congr fun i hi => ?_
    rw [peek_poke]
    by_cases heq : e = i
    · simp [heq, Entry.isFree]
    · have hheld : (peek c.entries i).isFree = false := (hrecency i).mp hi
      simp [heq, Ne.symm heq, hheld]
  have ha : c.asking.filter (fun i => (peek (poke c.entries e .free) i).hasMarks) = c.asking := by
    rw [List.filter_eq_self]
    intro i hi
    have hmi := (hasking i).mp hi
    rw [peek_poke, if_neg]
    · exact hmi
    · rintro rfl
      rw [hmarks] at hmi
      cases hmi
  rw [Cache.withEntries, hr, ha]

/-- Settles O55: the entry that UNPIN finds, by what it holds. -/
theorem unpinClearsOrFrees : Obligations.UnpinClearsOrFrees := by
  intro s b0 b1 more h
  have hexec : exec (.unpin (b0 :: b1 :: more)) s = .next ((s.receive 0x25).runUnpin (b0 :: b1 :: more)) :=
    frame_runs s 0x25 2 _ (fun s => s.runUnpin (b0 :: b1 :: more)) h (by simp)
  rw [hexec, State.runUnpin]
  refine ⟨fun hrange => ?_, fun o w key h0 h1 hkey => ?_⟩
  · rw [keyArg_above b0 b1 more hrange]
    rfl
  subst hkey
  rw [keyArg_cons b0 b1 more o w h0 h1]
  refine ⟨fun hnone => ?_, fun e hpinned hk hmin hok => ?_⟩
  · have hnone' : (s.receive 0x25).cache.pinnedOf { org := o, win := w } = none := (Cache.pinnedOf_eq_none _ _).mpr hnone
    simp only [hnone']
    rfl
  · have hsome : s.cache.pinnedOf { org := o, win := w } = some e :=
      (Cache.pinnedOf_eq_some _ _ e).mpr ⟨⟨hpinned, hk⟩, hmin⟩
    have hunpin : s.cache.unpin e = s.cache.withEntries (poke s.cache.entries e (s.cache.entry e).unpin) := rfl
    simp only [State.receive_cache, hsome, hunpin]
    rcases hx : s.cache.entry e with _ | ⟨k, p, d, st, m⟩ | ⟨k, p⟩ | k
    case free => rw [hx] at hk; cases hk
    case valid =>
      simp only [Entry.unpin]
      rw [withEntries_poke s.cache e _ hok rfl (by rw [hx]; rfl)]
      rfl
    case absent =>
      simp only [Entry.unpin]
      rw [withEntries_poke s.cache e _ hok rfl (by rw [hx]; rfl)]
      rfl
    case stale =>
      simp only [Entry.unpin]
      rw [withEntries_free s.cache e hok (by rw [hx]; rfl)]
      rfl

/-! ## PROBE (R21, R183) -/

theorem kindArg_byte (b : Byte) (h : b.toNat ≤ 2) :
    kindArg b.toNat = some (if b = 0 then .read else if b = 1 then .write else .fetch) := by
  have heq : ∀ k : Nat, k < 256 → (b = BitVec.ofNat 8 k ↔ b.toNat = k) := fun k hk => by
    rw [← BitVec.toNat_inj, BitVec.toNat_ofNat, Nat.mod_eq_of_lt hk]
  have h0 : b = 0 ↔ b.toNat = 0 := heq 0 (by decide)
  have h1 : b = 1 ↔ b.toNat = 1 := heq 1 (by decide)
  simp only [kindArg, h0, h1]
  split
  · rfl
  split
  · rfl
  rw [if_pos (by omega)]

theorem kindArg_above (n : Nat) (h : 2 < n) : kindArg n = none := by
  rw [kindArg, if_neg (by omega), if_neg (by omega), if_neg (by omega)]

theorem sizeArg_byte (b : Byte) (h : b = 1 ∨ b = 2 ∨ b = 4) :
    sizeArg b.toNat = some (if b = 1 then .one else if b = 2 then .two else .four) := by
  rcases h with rfl | rfl | rfl <;> rfl

theorem sizeArg_other (b : Byte) (h : ¬ (b = 1 ∨ b = 2 ∨ b = 4)) : sizeArg b.toNat = none := by
  have hne : ∀ k : Nat, k < 256 → b ≠ BitVec.ofNat 8 k → b.toNat ≠ k := fun k hk hb heq => hb (by
    rw [← BitVec.toNat_inj, BitVec.toNat_ofNat, Nat.mod_eq_of_lt hk, heq])
  rw [not_or, not_or] at h
  obtain ⟨h1, h2, h4⟩ := h
  rw [sizeArg, if_neg (hne 1 (by decide) h1), if_neg (hne 2 (by decide) h2), if_neg (hne 4 (by decide) h4)]

theorem probeArgs_out (bo bk bz a0 a1 a2 : Byte) (more : List Byte)
    (h : 3 < bo.toNat ∨ 2 < bk.toNat ∨ ¬ (bz = 1 ∨ bz = 2 ∨ bz = 4)) :
    probeArgs (bo :: bk :: bz :: a0 :: a1 :: a2 :: more) = none := by
  rcases h with h | h | h
  · simp only [probeArgs, originatorArg_above bo _ h]
  · have hk : kindArg (arg (bo :: bk :: bz :: a0 :: a1 :: a2 :: more) 1) = none := kindArg_above _ h
    cases ho : originatorArg (bo :: bk :: bz :: a0 :: a1 :: a2 :: more) 0 <;> simp only [probeArgs, ho, hk]
  · have hz : sizeArg (arg (bo :: bk :: bz :: a0 :: a1 :: a2 :: more) 2) = none := sizeArg_other bz h
    cases ho : originatorArg (bo :: bk :: bz :: a0 :: a1 :: a2 :: more) 0 <;>
      cases hk : kindArg (arg (bo :: bk :: bz :: a0 :: a1 :: a2 :: more) 1) <;> simp only [probeArgs, ho, hk, hz]

theorem probeArgs_in (bo bk bz a0 a1 a2 : Byte) (more : List Byte) (o : Originator) (ho : bo.toNat = o.val)
    (hk : bk.toNat ≤ 2) (hz : bz = 1 ∨ bz = 2 ∨ bz = 4) :
    probeArgs (bo :: bk :: bz :: a0 :: a1 :: a2 :: more) = some
      { org := o
        kind := if bk = 0 then .read else if bk = 1 then .write else .fetch
        size := if bz = 1 then .one else if bz = 2 then .two else .four
        addr := BitVec.ofNat 24 (a0.toNat + 256 * a1.toNat + 65536 * a2.toNat) } := by
  have hk' : kindArg (arg (bo :: bk :: bz :: a0 :: a1 :: a2 :: more) 1) = _ := kindArg_byte bk hk
  have hz' : sizeArg (arg (bo :: bk :: bz :: a0 :: a1 :: a2 :: more) 2) = _ := sizeArg_byte bz hz
  simp only [probeArgs, originatorArg_cons bo _ o ho, hk', hz']
  rfl

/-- A PROBE of a window below the count, by the lookup. -/
theorem probeLookup_hit (s : State) (a : Access) (e : EntryIx) (h : s.cache.find a.key = some e) :
    s.probeLookup a = ({ s with cache := s.cache.touch e }).finish .ok (match s.cache.entry e with
      | .valid _ _ d _ _ => probeVerdict a d false
      | _ => probeRefusal a .notPresent none false) := by
  simp only [State.probeLookup, h]
  cases s.cache.entry e <;> rfl

/-- Settles O57: the checks of PROBE in their order, and the hit by its entry. -/
theorem probeEvaluatesWithoutTrace : Obligations.ProbeEvaluatesWithoutTrace := by
  intro s bo bk bz a0 a1 a2 more h probe
  have hexec : exec probe s = .next ((s.receive 0x28).runProbe (bo :: bk :: bz :: a0 :: a1 :: a2 :: more)) :=
    frame_runs s 0x28 6 _ (fun s => s.runProbe (bo :: bk :: bz :: a0 :: a1 :: a2 :: more)) h (by simp)
  rw [hexec, State.runProbe]
  refine ⟨fun hrange => ?_, fun o a key ho hk hz ha hkey => ?_⟩
  · rw [probeArgs_out bo bk bz a0 a1 a2 more hrange]
    rfl
  have horg : a.org = o := by rw [ha]
  have hkey' : a.key = key := by rw [hkey, ← horg]; rfl
  rw [probeArgs_in bo bk bz a0 a1 a2 more o ho hk hz, ← ha]
  simp only [horg, context_receive, windowOf_val]
  refine ⟨fun hwrong => ?_, fun hstate hcount => ⟨fun hwindow => ?_, fun hwindow => ⟨fun e hfind => ?_, fun hfind => ?_⟩⟩⟩
  · rw [if_pos hwrong]
    rfl
  · rw [if_neg (by simp [hstate, hcount]), if_pos hwindow, probeRefusal_eq]
    rfl
  · have hfind' : (s.receive 0x28).cache.find a.key = some e := hkey' ▸ hfind
    rw [if_neg (by simp [hstate, hcount]), if_neg (Nat.not_le.mpr hwindow), probeLookup_hit (s.receive 0x28) a e hfind',
      State.receive_cache]
    rcases hx : s.cache.entry e with _ | ⟨k, p, d, st, m⟩ | ⟨k, p⟩ | k
    case valid =>
      simp only [probeVerdict_eq]
      cases d.evaluate a <;> rfl
    all_goals
      simp only [probeRefusal_eq]
      rfl
  · have hfind' : (s.receive 0x28).cache.find key = none := hfind
    rw [if_neg (by simp [hstate, hcount]), if_neg (Nat.not_le.mpr hwindow)]
    simp only [State.probeLookup, hkey', hfind']
    rfl

end Sys2Proof.Proofs
end
